-- ==== Sys2Proof/Word.lean ====
section
/-! DEFINITION. The word types of the BPU (00_scope.md R7). -/

namespace Sys2Proof

/-- A register word, a command word: 32 bits (10_state.md R12, 30_encoding.md R60). -/
abbrev Word := BitVec 32

/-- A 16-bit register field: WIDTH.W, HEIGHT.H, CONTRAST.CQ, BRIGHT.BQ (10_state.md R16 to R21). -/
abbrev Half := BitVec 16

/-- A GRAY sample, a PACKED byte, an emitted byte: 8 bits (20_memory.md R40). -/
abbrev Byte := BitVec 8

end Sys2Proof
end

