-- ==== Sys2Proof/Config.lean ====
section
/-! DEFINITION. What an implementation of the BPU fixes (00_scope.md R5) and the values the spec leaves
unspecified (93_implementation_defined.md U1). -/

namespace Sys2Proof

/-- The build-time parameters: the capacity of a frame row in pixels and of a frame in rows
(00_scope.md R5). -/
structure Params where
  wmax : Nat
  hmax : Nat
  deriving DecidableEq, Repr

/-- "WMAX and HMAX are each at least 1 and at most 65,535" (00_scope.md R5). -/
abbrev Params.wf (p : Params) : Prop :=
  1 ≤ p.wmax ∧ p.wmax ≤ 65535 ∧ 1 ≤ p.hmax ∧ p.hmax ≤ 65535

/-- The production instance, 1600 × 1200 (00_scope.md R5). -/
def Params.production : Params := { wmax := 1600, hmax := 1200 }

/-- `BPR(W) = ceil(W / 8)`, the bytes of a packed row (00_scope.md R5). -/
def bpr (w : Nat) : Nat := (w + 7) / 8

/-- `LEN(W, H) = BPR(W) × H`, the packed length (00_scope.md R5, 90_conflicts.md C2). -/
def packedLen (w h : Nat) : Nat := bpr w * h

/-- NPIX, the cells of GRAY and of MONO (00_scope.md R5). -/
def Params.npix (p : Params) : Nat := p.wmax * p.hmax

/-- NPACK, the cells of PACKED (00_scope.md R5). -/
def Params.npack (p : Params) : Nat := packedLen p.wmax p.hmax

/-- The value GRAY cell `i` holds from the `n`-th hardware reset until something writes it: a free
value, one per cell and reset, stable (93_implementation_defined.md U1). No body: nothing is known of
it. -/
opaque Config.unwrittenGray (n i : Nat) : Byte

/-- The value MONO cell `i` holds from the `n`-th hardware reset until something writes it (U1). -/
opaque Config.unwrittenMono (n i : Nat) : Bool

/-- The value PACKED cell `i` holds from the `n`-th hardware reset until something writes it (U1). -/
opaque Config.unwrittenPacked (n i : Nat) : Byte

end Sys2Proof
end

