-- ==== Sys2Proof/Syntax.lean ====
section
/-! DEFINITION. The commands of the BPU, one constructor per row of spec/opcode_table.json, and the
host's moves and the answers its ports give (20_memory.md R41, 30_encoding.md R72). -/

namespace Sys2Proof

/-- The 23 commands (30_encoding.md R62, R63). No command has an operand: each pattern number is a
row of its own, and everything else is read from registers and frame memories (R64). -/
inductive Instr where
  | nop
  | pack
  | unpack
  | adjc
  | adjb
  | binThr
  | binFs
  | binarize
  | invert
  | convert
  | verify
  | stream
  | patWhite
  | patBlack
  | patChecker
  | patStripesH
  | patStripesV
  | patGradient
  | patBorder
  | patGrid
  | patSplit
  | patText
  | reset
  deriving DecidableEq, Repr

/-- One move of the host (20_memory.md R41). Register numbers and cell indices are plain numbers, so
that an access outside a space's range can be made and answered (R44); a stored value is a 32-bit
word that the port truncates to the cell's width (R43). -/
inductive HostMove where
  /-- `RD r` -/
  | rd (r : Nat)
  /-- `WR r, v`; a write of register 3 (CMD) starts the command `v` -/
  | wr (r : Nat) (v : Word)
  /-- `LD.G i` -/
  | ldG (i : Nat)
  /-- `LD.M i` -/
  | ldM (i : Nat)
  /-- `LD.P i` -/
  | ldP (i : Nat)
  /-- `ST.G i, v` -/
  | stG (i : Nat) (v : Word)
  /-- `ST.M i, v` -/
  | stM (i : Nat) (v : Word)
  /-- `ST.P i, v` -/
  | stP (i : Nat) (v : Word)
  /-- power-on, or the assertion of the reset input (70_reset_and_hazards.md R170) -/
  | hardReset
  /-- receive the bytes appended to OUT -/
  | consume
  deriving DecidableEq, Repr

/-- What the host gets back from one move: a cell at its port's width (20_memory.md R42), the bytes
received from OUT, the end of a write, or the error response of R44. -/
inductive Answer where
  | word (v : Word)
  | byte (v : Byte)
  | bit (v : Bool)
  | bytes (l : List Byte)
  | done
  | error
  deriving DecidableEq, Repr

end Sys2Proof
end

