-- ==== Sys2Proof/WellFormed.lean ====
section
/-! DEFINITION. Which terms of the syntax are well formed. -/

namespace Sys2Proof

/-- Every command is well formed: none has an operand that could be out of its range
(30_encoding.md R64). -/
def Instr.wf : Instr → Bool
  | .nop => true
  | .pack => true
  | .unpack => true
  | .adjc => true
  | .adjb => true
  | .binThr => true
  | .binFs => true
  | .binarize => true
  | .invert => true
  | .convert => true
  | .verify => true
  | .stream => true
  | .patWhite => true
  | .patBlack => true
  | .patChecker => true
  | .patStripesH => true
  | .patStripesV => true
  | .patGradient => true
  | .patBorder => true
  | .patGrid => true
  | .patSplit => true
  | .patText => true
  | .reset => true

/-- A host move is well formed when its index lies inside its space's range (20_memory.md R40, R44): the
12 registers, the NPIX cells of GRAY and of MONO, the NPACK cells of PACKED. A move that is not is
answered with an error. -/
def HostMove.wf (p : Params) : HostMove → Bool
  | .rd r => decide (r < 12)
  | .wr r _ => decide (r < 12)
  | .ldG i => decide (i < p.npix)
  | .ldM i => decide (i < p.npix)
  | .ldP i => decide (i < p.npack)
  | .stG i _ => decide (i < p.npix)
  | .stM i _ => decide (i < p.npix)
  | .stP i _ => decide (i < p.npack)
  | .hardReset => true
  | .consume => true

end Sys2Proof
end

