-- ==== Sys2Proof/Decode.lean ====
section
/-! DEFINITION. Decoding a command word (30_encoding.md R60 to R63, R65) and encoding a command. -/

namespace Sys2Proof

/-- Why a word is `ILLEGAL`: the four lines of 30_encoding.md R61 that say so. -/
inductive Illegal where
  /-- line (1): a bit of `rsv` (31:12) is set -/
  | reservedBits
  /-- line (2): `op` is none of the fourteen values of R62 -/
  | unknownOp
  /-- line (3): `op` is PAT and `pat` is 10 or more -/
  | unknownPattern
  /-- line (4): `op` is not PAT and `pat` is not 0 -/
  | patternNotZero
  deriving DecidableEq, Repr

/-- Field `op`, bits 7:0 (30_encoding.md R60). -/
def opField (w : Word) : Byte := w.extractLsb' 0 8

/-- Field `pat`, bits 11:8 (30_encoding.md R60). -/
def patField (w : Word) : BitVec 4 := w.extractLsb' 8 4

/-- Field `rsv`, bits 31:12 (30_encoding.md R60). -/
def rsvField (w : Word) : BitVec 20 := w.extractLsb' 12 20

/-- The `op` value of PAT (30_encoding.md R62). -/
def patOp : Byte := 0x30

/-- The patterns by their `pat` number (30_encoding.md R63). -/
def patternTable : List (BitVec 4 × Instr) :=
  [(0, .patWhite), (1, .patBlack), (2, .patChecker), (3, .patStripesH), (4, .patStripesV),
   (5, .patGradient), (6, .patBorder), (7, .patGrid), (8, .patSplit), (9, .patText)]

/-- The commands other than PAT by their `op` value (30_encoding.md R62). -/
def opTable : List (Byte × Instr) :=
  [(0x00, .nop), (0x01, .pack), (0x02, .unpack),
   (0x10, .adjc), (0x11, .adjb), (0x12, .binThr), (0x13, .binFs), (0x14, .binarize), (0x15, .invert),
   (0x20, .convert), (0x21, .verify), (0x22, .stream),
   (0x7F, .reset)]

/-- Decoding, total on 32-bit words, in the order of 30_encoding.md R61: a command, or the reason why
the word is `ILLEGAL`. -/
def decode (w : Word) : Except Illegal Instr :=
  if rsvField w ≠ 0 then .error .reservedBits
  else if opField w = patOp then
    match patternTable.lookup (patField w) with
    | some i => .ok i
    | none => .error .unknownPattern
  else
    match opTable.lookup (opField w) with
    | none => .error .unknownOp
    | some i => if patField w ≠ 0 then .error .patternNotZero else .ok i

/-- The `pat` and `op` fields of a command (30_encoding.md R62, R63). -/
def encodeFields : Instr → BitVec 4 × Byte
  | .nop => (0, 0x00)
  | .pack => (0, 0x01)
  | .unpack => (0, 0x02)
  | .adjc => (0, 0x10)
  | .adjb => (0, 0x11)
  | .binThr => (0, 0x12)
  | .binFs => (0, 0x13)
  | .binarize => (0, 0x14)
  | .invert => (0, 0x15)
  | .convert => (0, 0x20)
  | .verify => (0, 0x21)
  | .stream => (0, 0x22)
  | .patWhite => (0, patOp)
  | .patBlack => (1, patOp)
  | .patChecker => (2, patOp)
  | .patStripesH => (3, patOp)
  | .patStripesV => (4, patOp)
  | .patGradient => (5, patOp)
  | .patBorder => (6, patOp)
  | .patGrid => (7, patOp)
  | .patSplit => (8, patOp)
  | .patText => (9, patOp)
  | .reset => (0, 0x7F)

/-- The word of a command in format C: `rsv` 0, then `pat`, then `op` (30_encoding.md R60). -/
def encode (i : Instr) : Word := (0 : BitVec 20) ++ (encodeFields i).1 ++ (encodeFields i).2

/-- The 32-bit word that a table word of `nbits` bits stands for: the bits above `nbits` are 0. -/
def tableWord (nbits w : Nat) : Word := BitVec.ofNat 32 (w % 2 ^ nbits)

/-- What the decoder reads from an instruction's bits as spec/opcode_table.json numbers them. The BPU
takes a command word whole, by value (20_memory.md R46, R54), so the table's bit 0 is the word's bit 0
and no byte order comes in. -/
def decodeTableWord (nbits w : Nat) : Option Instr :=
  match decode (tableWord nbits w) with
  | .ok i => some i
  | .error _ => none

end Sys2Proof
end

