-- ==== Sys2Proof/Machine/State.lean ====
section
/-! DEFINITION. The state of the BPU as plain data (10_state.md section 1), and the state after a
hardware reset (R35). -/

namespace Sys2Proof.Machine

/-- The values STATUS.FAULT can hold; 4 to 15 are never produced (60_exceptions.md R150). -/
inductive FaultCode where
  | none
  | badDim
  | sizeMismatch
  | illegalCmd
  deriving DecidableEq, Repr

/-- The register fields that have storage (10_state.md R12). -/
structure Regs where
  /-- CTRL.STRICT (R13) -/
  strict : Bool
  /-- STATUS.FAULT (R14) -/
  fault : FaultCode
  /-- STATUS.WARN_SIZE (R14) -/
  warnSize : Bool
  /-- FAULTINFO.INFO (R15) -/
  faultInfo : Word
  /-- WIDTH.W (R16) -/
  width : Half
  /-- HEIGHT.H (R17) -/
  height : Half
  /-- EXPLEN.LEN (R18) -/
  expLen : Word
  /-- THRESHOLD.T (R19) -/
  threshold : Byte
  /-- CONTRAST.CQ, unsigned Q8.8 (R20) -/
  contrast : Half
  /-- BRIGHT.BQ, unsigned Q8.8 (R21) -/
  bright : Half
  /-- MODE.INVERT (R22) -/
  invert : Bool
  /-- MODE.DITHER (R22) -/
  dither : Bool
  deriving DecidableEq, Repr

/-- The contents of one frame memory: the cells written since the last hardware reset, as pairs of a
cell index and a value, indices strictly rising (`Memory Byte` is a list of `Host.Cell`). A cell that
is not listed has no stored value: it holds its free value (93_implementation_defined.md U1). -/
abbrev Memory (α : Type) := List (Nat × α)

/-- The canonical form of a memory of `bound` cells: indices strictly rising, all inside the memory. No
entry can equal what an unlisted cell reads as, since an unlisted cell stores nothing. -/
abbrev Memory.wf {α : Type} (bound : Nat) (m : Memory α) : Prop :=
  m.Pairwise (fun a b => a.1 < b.1) ∧ ∀ c ∈ m, c.1 < bound

/-- The BPU (10_state.md section 1: registers, GRAY, MONO, PACKED, OUT) and the model's own fields. -/
structure State where
  /-- the registers (R12 to R22) -/
  regs : Regs
  /-- GRAY (R27) -/
  gray : Memory Byte
  /-- MONO, `true` = 1 = black (R28) -/
  mono : Memory Bool
  /-- PACKED (R29) -/
  packed : Memory Byte
  /-- OUT, oldest byte first (R30) -/
  out : List Byte
  /-- the model's own: the build-time parameters, which nothing changes (00_scope.md R5; DESIGN CHOICE, log
  entry 1, safe) -/
  params : Params
  /-- the model's own: which hardware reset the unwritten cells' free values belong to (U1; DESIGN CHOICE,
  log entry 2, safe) -/
  resets : Nat
  /-- the model's own: the host's moves still to come, the next one first (20_memory.md R41; DESIGN CHOICE,
  log entry 3, safe) -/
  script : List HostMove
  /-- the model's own: the ports' answers so far, oldest first (20_memory.md R42, R44; DESIGN CHOICE, log
  entry 5, safe) -/
  answers : List Answer
  /-- the model's own: how many bytes of OUT the consumer's moves have delivered (R41; DESIGN CHOICE, log
  entry 5, safe) -/
  taken : Nat
  deriving DecidableEq, Repr

/-- No step of the BPU stops: "every command word in every state has exactly one outcome"
(93_implementation_defined.md part 2), the BPU's own faults are states (60_exceptions.md R159), and an
access out of range is answered (20_memory.md R44). So there is no reason to fault, and no constructor. -/
inductive Fault where
  deriving DecidableEq, Repr

/-- Why a step may have no meaning. -/
inductive Refusal where
  /-- raised by an arm of `exec` whose instruction has no meaning yet; no arm does (safe) -/
  | notModelled (mnemonic : String)
  deriving DecidableEq, Repr

/-- The reset values of the registers (10_state.md R35). -/
def Regs.reset (p : Params) : Regs where
  strict := true
  fault := .none
  warnSize := false
  faultInfo := 0
  width := BitVec.ofNat 16 p.wmax
  height := BitVec.ofNat 16 p.hmax
  expLen := BitVec.ofNat 32 p.npack
  threshold := 128
  contrast := 0x0100
  bright := 0x0100
  invert := false
  dither := false

/-- The BPU of parameters `p` right after a hardware reset: registers at their reset values, OUT empty,
every frame cell unspecified, hence unlisted (10_state.md R35, 70_reset_and_hazards.md R171). The host
has made no move yet. -/
def State.resetOf (p : Params) : State where
  regs := Regs.reset p
  gray := []
  mono := []
  packed := []
  out := []
  params := p
  resets := 0
  script := []
  answers := []
  taken := 0

/-- The production instance right after a hardware reset. -/
def State.reset : State := State.resetOf .production

end Sys2Proof.Machine
end

