-- ==== Sys2Proof/Machine/Ops.lean ====
section
/-! DEFINITION. The named operations over memories and registers: cells, frames, the output stream,
fault entry and recovery. -/

namespace Sys2Proof.Machine

/-! ## One memory -/

/-- What cell `i` stores, if anything wrote it since the last hardware reset. -/
def Memory.cell? {α : Type} (m : Memory α) (i : Nat) : Option α :=
  match m.dropWhile (fun c => c.1 < i) with
  | [] => none
  | (j, v) :: _ => if j = i then some v else none

/-- What cell `i` reads as: its stored value, else its free value `free i` (93_implementation_defined.md
U1). -/
def Memory.read {α : Type} (free : Nat → α) (m : Memory α) (i : Nat) : α :=
  (m.cell? i).getD (free i)

/-- Write of one cell: it keeps the list in rising order, with one entry per cell. -/
def Memory.write {α : Type} (m : Memory α) (i : Nat) (v : α) : Memory α :=
  m.takeWhile (fun c => c.1 < i) ++ (i, v) :: m.dropWhile (fun c => c.1 ≤ i)

/-- The values of the cells 0 .. n - 1 in ascending order. One pass over the list: at cell `i` the entries
below `i` are done with. -/
def Memory.slice {α : Type} (free : Nat → α) (n : Nat) (m : Memory α) : List α :=
  ((List.range n).foldl
    (fun (a : Array α × Memory α) i =>
      (a.1.push (Memory.read free a.2 i), a.2.dropWhile (fun c => c.1 < i)))
    (#[], m)).1.toList

/-- Write of the cells 0, 1, 2, … with the values of a list; cells from its length on keep what they
hold. A frame command writes its active cells so: their order cannot be observed, since a command is
atomic (20_memory.md R52, R55; DEDUCED, log entry 8, safe). -/
def Memory.overwrite {α : Type} (m : Memory α) (vs : List α) : Memory α :=
  (List.range vs.length).zip vs ++ m.dropWhile (fun c => c.1 < vs.length)

/-! ## The three frame memories -/

/-- `GRAY[i]`. -/
def State.grayAt (s : State) (i : Nat) : Byte := s.gray.read (Config.unwrittenGray s.resets) i

/-- `MONO[i]`, `true` = 1 = black. -/
def State.monoAt (s : State) (i : Nat) : Bool := s.mono.read (Config.unwrittenMono s.resets) i

/-- `PACKED[i]`. -/
def State.packedAt (s : State) (i : Nat) : Byte := s.packed.read (Config.unwrittenPacked s.resets) i

/-- `GRAY[i] <- v` (20_memory.md R43). -/
def State.writeGray (s : State) (i : Nat) (v : Byte) : State := { s with gray := s.gray.write i v }

/-- `MONO[i] <- v` (20_memory.md R43). -/
def State.writeMono (s : State) (i : Nat) (v : Bool) : State := { s with mono := s.mono.write i v }

/-- `PACKED[i] <- v` (20_memory.md R43). -/
def State.writePacked (s : State) (i : Nat) (v : Byte) : State :=
  { s with packed := s.packed.write i v }

/-- GRAY cells 0, 1, 2, … take the values of a list. -/
def State.putGray (s : State) (vs : List Byte) : State := { s with gray := s.gray.overwrite vs }

/-- MONO cells 0, 1, 2, … take the values of a list. -/
def State.putMono (s : State) (vs : List Bool) : State := { s with mono := s.mono.overwrite vs }

/-- PACKED cells 0, 1, 2, … take the values of a list. -/
def State.putPacked (s : State) (vs : List Byte) : State := { s with packed := s.packed.overwrite vs }

/-- `emit` of each byte of a list, in order: OUT is append-only (10_state.md R30). -/
def State.emit (s : State) (bs : List Byte) : State := { s with out := s.out ++ bs }

/-! ## Fault entry, the warning, recovery -/

/-- `raise Fault(code, info)`: STATUS.FAULT and FAULTINFO are written, nothing else is saved or changed,
and control goes nowhere (60_exceptions.md R159). -/
def State.raiseFault (s : State) (code : FaultCode) (info : Word) : State :=
  { s with regs := { s.regs with fault := code, faultInfo := info } }

/-- The way out of the fault state: every register to its reset value, memories and OUT kept
(60_exceptions.md R161, 42_pipeline_serializer.md R121). There is no return from a fault. -/
def State.recover (s : State) : State := { s with regs := Regs.reset s.params }

/-- A hardware reset: as `recover`, and every frame cell becomes unspecified again (new free values) and
the record OUT restarts empty (70_reset_and_hazards.md R171, R173). The host's own record goes on (DESIGN
CHOICE, log entry 17, safe). -/
def State.hardReset (s : State) : State :=
  { s with
    regs := Regs.reset s.params
    gray := []
    mono := []
    packed := []
    out := []
    resets := s.resets + 1
    taken := 0 }

end Sys2Proof.Machine
end

