-- ==== Sys2Proof/Machine/Operands.lean ====
section
/-! DEFINITION. What commands take as operands: the frame's dimensions, its index functions, and the
active cells of the three memories (30_encoding.md R64, 10_state.md R31). -/

namespace Sys2Proof.Machine

/-- W, the active width (10_state.md R16). -/
def State.w (s : State) : Nat := s.regs.width.toNat

/-- H, the active height (10_state.md R17). -/
def State.h (s : State) : Nat := s.regs.height.toNat

/-- `BPR(WIDTH.W) × HEIGHT.H`, what PLEN reads, defined for every W and H (10_state.md R24). -/
def State.plen (s : State) : Nat := packedLen s.w s.h

/-- `px(x, y) = y × W + x` (00_scope.md R9, 10_state.md R31). -/
def px (w x y : Nat) : Nat := y * w + x

/-- `bx(y, c) = y × BPR(W) + c` (00_scope.md R9). -/
def bx (w y c : Nat) : Nat := y * bpr w + c

/-- The active cells of GRAY, row by row (10_state.md R31). -/
def State.grayFrame (s : State) : List Byte :=
  Memory.slice (Config.unwrittenGray s.resets) (s.w * s.h) s.gray

/-- The active cells of MONO, row by row (10_state.md R31). -/
def State.monoFrame (s : State) : List Bool :=
  Memory.slice (Config.unwrittenMono s.resets) (s.w * s.h) s.mono

/-- The active cells of PACKED, row by row (10_state.md R31). -/
def State.packedFrame (s : State) : List Byte :=
  Memory.slice (Config.unwrittenPacked s.resets) s.plen s.packed

/-- The picture of a predicate, row by row: cell `i` is pixel `(i mod W, floor(i / W))`
(10_state.md R31, R32). -/
def raster (w h : Nat) (p : Nat → Nat → Bool) : List Bool :=
  (List.range (w * h)).map fun i => p (i % w) (i / w)

/-- `clamp(v, lo, hi)` (00_scope.md R8). -/
def clamp (v lo hi : Int) : Int := if v < lo then lo else if hi < v then hi else v

/-- A clamped sample as a cell: an integer in 0 .. 255. -/
def toSample (v : Int) : Byte := BitVec.ofNat 8 (clamp v 0 255).toNat

end Sys2Proof.Machine
end

