-- ==== Sys2Proof/Machine/Flags.lean ====
section
/-! DEFINITION. The BPU's flags, STATUS.FAULT and STATUS.WARN_SIZE, and the checks that set them: the
dimension check, the length check, and the order of the checks of one command (60_exceptions.md R158). -/

namespace Sys2Proof.Machine

/-- The 4-bit code of STATUS.FAULT (60_exceptions.md R150). -/
def FaultCode.code : FaultCode → BitVec 4
  | .none => 0
  | .badDim => 1
  | .sizeMismatch => 2
  | .illegalCmd => 3

/-- `warn SizeMismatch`: WARN_SIZE becomes 1, nothing else changes (60_exceptions.md R154). -/
def State.warnSizeMismatch (s : State) : State := { s with regs := { s.regs with warnSize := true } }

/-- The condition of `DimCheck()` (60_exceptions.md R152). -/
def State.badDims (s : State) : Bool :=
  decide (s.w = 0) || decide (s.h = 0) || decide (s.params.wmax < s.w) || decide (s.params.hmax < s.h)

/-- Who runs the length check (42_pipeline_serializer.md R114). -/
inductive CheckKind where
  | converter
  | pattern
  deriving DecidableEq, Repr

/-- `SizeCheck(kind)` of the command with word `cmd` (42_pipeline_serializer.md R114). -/
def State.sizeCheck (kind : CheckKind) (cmd : Word) (s : State) : State :=
  if s.plen = s.regs.expLen.toNat then s
  else
    match kind with
    | .pattern => s.raiseFault .sizeMismatch cmd
    | .converter =>
      if s.regs.strict then s.raiseFault .sizeMismatch cmd else s.warnSizeMismatch

/-- Line 2 of 60_exceptions.md R158: a command is refused, without any effect, while STATUS.FAULT ≠ 0
(R160). -/
def unlessFaulted (body : State → State) (s : State) : State :=
  if s.regs.fault = .none then body s else s

/-- A frame command with word `cmd`: refusal, then `DimCheck()`, then the body (60_exceptions.md R158
lines 2, 4, 5; 30_encoding.md R66). -/
def frameCommand (cmd : Word) (body : State → State) (s : State) : State :=
  unlessFaulted (fun s => if s.badDims then s.raiseFault .badDim cmd else body s) s

/-- A write to CMD of a word that decodes to `ILLEGAL` (60_exceptions.md R153, R158 lines 2, 3). -/
def illegalCommand (w : Word) (s : State) : State :=
  unlessFaulted (fun s => s.raiseFault .illegalCmd w) s

end Sys2Proof.Machine
end

