-- ==== Sys2Proof/Machine/Codec.lean ====
section
/-! DEFINITION. The bit-packing codec: PACK and UNPACK (40_codec.md), over the packed layout of
30_encoding.md R69. -/

namespace Sys2Proof.Machine

/-- `PackByte(P, W, y, c)`: pixel `8c + k` in bit `7 - k`, pad bits 0 (30_encoding.md R69). -/
def packByte (p : Nat → Nat → Bool) (w y c : Nat) : Byte :=
  (List.range 8).foldl
    (fun b k => if 8 * c + k < w ∧ p (8 * c + k) y = true then b + ((1 : Byte) <<< (7 - k)) else b) 0

/-- `Packed(P, W, H)`: the packed form of a predicate, byte `bx(y, c)` being `PackByte(P, W, y, c)`
(30_encoding.md R69). -/
def packedForm (p : Nat → Nat → Bool) (w h : Nat) : List Byte :=
  (List.range (packedLen w h)).map fun i => packByte p w (i / bpr w) (i % bpr w)

/-- `BitOf(B, W, x, y)`: bit `7 - (x mod 8)` of byte `bx(y, floor(x / 8))` (30_encoding.md R69). -/
def bitOf (b : Nat → Byte) (w x y : Nat) : Bool := (b (bx w y (x / 8))).getLsbD (7 - x % 8)

/-- The predicate that a binary frame of width `w` holds: `P(x, y) = MONO[px(x, y)]`. -/
def framePixel (frame : Array Bool) (w x y : Nat) : Bool := frame.getD (px w x y) false

/-- The body of PACK (40_codec.md R81). -/
def packBody (s : State) : State :=
  let frame := s.monoFrame.toArray
  s.putPacked (packedForm (framePixel frame s.w) s.w s.h)

/-- The body of UNPACK (40_codec.md R83). -/
def unpackBody (s : State) : State :=
  let buffer := s.packedFrame.toArray
  s.putMono (raster s.w s.h (bitOf (fun i => buffer.getD i 0) s.w))

/-- PACK (40_codec.md R81). -/
def execPack (s : State) : Host.Outcome State Fault Refusal :=
  .next (frameCommand (encode .pack) packBody s)

/-- UNPACK (40_codec.md R83). -/
def execUnpack (s : State) : Host.Outcome State Fault Refusal :=
  .next (frameCommand (encode .unpack) unpackBody s)

end Sys2Proof.Machine
end

