-- ==== Sys2Proof/Machine/Patterns.lean ====
section
/-! DEFINITION. The pattern generator: the ten predicates and the PAT commands (43_patterns.md). A
predicate is a function of W, H and the pixel's coordinates (R125). -/

namespace Sys2Proof.Machine

/-- `g(x) = 8 × floor(x / 8)`, the group start column (43_patterns.md). -/
def groupStart (x : Nat) : Nat := 8 * (x / 8)

/-- white: never black (43_patterns.md R127). -/
def patWhite (_w _h _x _y : Nat) : Bool := false

/-- black: always black (43_patterns.md R128). -/
def patBlack (_w _h _x _y : Nat) : Bool := true

/-- checkerboard: 8 × 8 blocks, block (0, 0) black (43_patterns.md R129). -/
def patChecker (_w _h x y : Nat) : Bool := decide ((x / 8 + y / 8) % 2 = 0)

/-- stripes_horizontal: bands of 10 rows, the first black (43_patterns.md R130). -/
def patStripesH (_w _h _x y : Nat) : Bool := decide (y / 10 % 2 = 0)

/-- stripes_vertical: decided once per byte group at its start column (43_patterns.md R131, R137). -/
def patStripesV (_w _h x _y : Nat) : Bool := decide (groupStart x / 10 % 2 = 0)

/-- gradient: the per-row threshold `floor(255 × y / H)` against `(17x + 13y) mod 256`
(43_patterns.md R132). -/
def patGradient (_w h x y : Nat) : Bool := decide ((17 * x + 13 * y) % 256 < 255 * y / h)

/-- border: 20 pixels on each side, the comparisons on signed integers (43_patterns.md R133). -/
def patBorder (w h x y : Nat) : Bool :=
  decide (x < 20 ∨ (w : Int) - 20 ≤ (x : Int) ∨ y < 20 ∨ (h : Int) - 20 ≤ (y : Int))

/-- grid: lines of 2 pixels at the top and left of each 100-pixel cell (43_patterns.md R134). -/
def patGrid (_w _h x y : Nat) : Bool := decide (y % 100 < 2 ∨ x % 100 < 2)

/-- split: the groups that start in the left half (43_patterns.md R135, R137). -/
def patSplit (w _h x _y : Nat) : Bool := decide (groupStart x < w / 2)

/-- text: four bars of 80 pixels in a centred 400 × 100 rectangle, whose corner (sx, sy) is signed
(43_patterns.md R136). -/
def patText (w h x y : Nat) : Bool :=
  let sx : Int := (w / 2 : Nat) - 200
  let sy : Int := (h / 2 : Nat) - 50
  decide (sy ≤ y ∧ (y : Int) < sy + 100 ∧ sx ≤ x ∧ (x : Int) < sx + 400 ∧ ((x : Int) - sx) % 100 < 80)

/-- The body of a PAT command after `DimCheck()`: the predicate into MONO, then the body of PACK
(43_patterns.md R126). -/
def patBody (p : Nat → Nat → Nat → Nat → Bool) (s : State) : State :=
  packBody (s.putMono (raster s.w s.h (p s.w s.h)))

/-- A PAT command with word `cmd` and predicate `p`: body, then the length check, always fatal
(43_patterns.md R126). -/
def patCommand (cmd : Word) (p : Nat → Nat → Nat → Nat → Bool) (s : State) : State :=
  frameCommand cmd (fun s => (patBody p s).sizeCheck .pattern cmd) s

/-- PAT.WHITE (43_patterns.md R127). -/
def execPatWhite (s : State) : Host.Outcome State Fault Refusal :=
  .next (patCommand (encode .patWhite) patWhite s)

/-- PAT.BLACK (43_patterns.md R128). -/
def execPatBlack (s : State) : Host.Outcome State Fault Refusal :=
  .next (patCommand (encode .patBlack) patBlack s)

/-- PAT.CHECKER (43_patterns.md R129). -/
def execPatChecker (s : State) : Host.Outcome State Fault Refusal :=
  .next (patCommand (encode .patChecker) patChecker s)

/-- PAT.STRIPES_H (43_patterns.md R130). -/
def execPatStripesH (s : State) : Host.Outcome State Fault Refusal :=
  .next (patCommand (encode .patStripesH) patStripesH s)

/-- PAT.STRIPES_V (43_patterns.md R131). -/
def execPatStripesV (s : State) : Host.Outcome State Fault Refusal :=
  .next (patCommand (encode .patStripesV) patStripesV s)

/-- PAT.GRADIENT (43_patterns.md R132). -/
def execPatGradient (s : State) : Host.Outcome State Fault Refusal :=
  .next (patCommand (encode .patGradient) patGradient s)

/-- PAT.BORDER (43_patterns.md R133). -/
def execPatBorder (s : State) : Host.Outcome State Fault Refusal :=
  .next (patCommand (encode .patBorder) patBorder s)

/-- PAT.GRID (43_patterns.md R134). -/
def execPatGrid (s : State) : Host.Outcome State Fault Refusal :=
  .next (patCommand (encode .patGrid) patGrid s)

/-- PAT.SPLIT (43_patterns.md R135). -/
def execPatSplit (s : State) : Host.Outcome State Fault Refusal :=
  .next (patCommand (encode .patSplit) patSplit s)

/-- PAT.TEXT (43_patterns.md R136). -/
def execPatText (s : State) : Host.Outcome State Fault Refusal :=
  .next (patCommand (encode .patText) patText s)

end Sys2Proof.Machine
end

