-- ==== Sys2Proof/Machine/Binarize.lean ====
section
/-! DEFINITION. Binarization and inversion: BIN_THR, BIN_FS, BINARIZE, INVERT (41_tone_binarize.md
sections 2 and 3). -/

namespace Sys2Proof.Machine

/-- The threshold decision: black iff the sample is below T, strictly, unsigned
(41_tone_binarize.md R94). -/
def thresholdBlack (t v : Byte) : Bool := decide (v.toNat < t.toNat)

/-- The body of BIN_THR (41_tone_binarize.md R94). -/
def binThrBody (s : State) : State := s.putMono (s.grayFrame.map (thresholdBlack s.regs.threshold))

/-- What the dither's raster scan carries from pixel to pixel: the error store ERR, one signed value per
pixel of the frame (10_state.md R33), and the decisions made so far. It lives inside one command. -/
structure DitherScan where
  err : Array Int
  black : Array Bool
  deriving DecidableEq, Repr

/-- The scan before the first pixel: every error 0 (41_tone_binarize.md R96). -/
def ditherStart (w h : Nat) : DitherScan := { err := Array.replicate (w * h) 0, black := #[] }

/-- The error-corrected sample `old` of pixel `i` (41_tone_binarize.md R96). -/
def correctedSample (gray : Array Byte) (err : Array Int) (i : Nat) : Int :=
  clamp (((gray.getD i 0).toNat : Int) + err.getD i 0) 0 255

/-- The quantisation error `e = old - q` with `q` 0 for black (below 128) and 255 for white
(41_tone_binarize.md R96). -/
def quantError (old : Int) : Int := if old < 128 then old - 0 else old - 255

/-- `ERR[i] += (k × e) >> 4` when the target lies inside the frame; a share outside is dropped
(41_tone_binarize.md R96). -/
def addShare (inside : Bool) (i : Nat) (k e : Int) (err : Array Int) : Array Int :=
  if inside then err.setIfInBounds i (err.getD i 0 + k * e / 16) else err

/-- One pixel of the scan, pixel `i` being `(i mod W, floor(i / W))` (41_tone_binarize.md R96). -/
def ditherPixel (w h : Nat) (gray : Array Byte) (d : DitherScan) (i : Nat) : DitherScan :=
  let x := i % w
  let y := i / w
  let old := correctedSample gray d.err i
  let e := quantError old
  let err := addShare (decide (x + 1 < w)) (i + 1) 7 e d.err
  let err := addShare (decide (1 ≤ x ∧ y + 1 < h)) (i + w - 1) 3 e err
  let err := addShare (decide (y + 1 < h)) (i + w) 5 e err
  let err := addShare (decide (x + 1 < w ∧ y + 1 < h)) (i + w + 1) 1 e err
  { err := err, black := d.black.push (decide (old < 128)) }

/-- The scan after the first `k` pixels in raster order, every row left to right
(41_tone_binarize.md R96, R103). -/
def ditherScan (w h : Nat) (gray : Array Byte) (k : Nat) : DitherScan :=
  (List.range k).foldl (ditherPixel w h gray) (ditherStart w h)

/-- The dithered frame: a function of W, H and the active GRAY cells alone, the interface `dither_fn` of
41_tone_binarize.md R97. -/
def ditherFrame (w h : Nat) (gray : Array Byte) : List Bool := (ditherScan w h gray (w * h)).black.toList

/-- The body of BIN_FS (41_tone_binarize.md R96). -/
def binFsBody (s : State) : State := s.putMono (ditherFrame s.w s.h s.grayFrame.toArray)

/-- The body of BINARIZE, step 6 of the pipeline: the mode that MODE.DITHER selects
(41_tone_binarize.md R98). -/
def binarizeBody (s : State) : State := if s.regs.dither then binFsBody s else binThrBody s

/-- The body of INVERT (41_tone_binarize.md R101). -/
def invertBody (s : State) : State := s.putMono (s.monoFrame.map (fun b => !b))

/-- BIN_THR (41_tone_binarize.md R94). -/
def execBinThr (s : State) : Host.Outcome State Fault Refusal :=
  .next (frameCommand (encode .binThr) binThrBody s)

/-- BIN_FS (41_tone_binarize.md R96). -/
def execBinFs (s : State) : Host.Outcome State Fault Refusal :=
  .next (frameCommand (encode .binFs) binFsBody s)

/-- BINARIZE (41_tone_binarize.md R98). -/
def execBinarize (s : State) : Host.Outcome State Fault Refusal :=
  .next (frameCommand (encode .binarize) binarizeBody s)

/-- INVERT (41_tone_binarize.md R101). -/
def execInvert (s : State) : Host.Outcome State Fault Refusal :=
  .next (frameCommand (encode .invert) invertBody s)

end Sys2Proof.Machine
end

