-- ==== Sys2Proof/Machine/Tone.lean ====
section
/-! DEFINITION. The tone adjustments ADJC and ADJB (41_tone_binarize.md section 1). -/

namespace Sys2Proof.Machine

/-- The contrast pivot, mid-gray 128 (41_tone_binarize.md R91, 00_scope.md R5). -/
def midGray : Int := 128

/-- The contrast-adjusted sample: `clamp(floor((128 × 256 + (v - 128) × CQ) / 256), 0, 255)`
(41_tone_binarize.md R91). -/
def contrastSample (cq : Half) (v : Byte) : Byte :=
  toSample ((midGray * 256 + ((v.toNat : Int) - midGray) * (cq.toNat : Int)) / 256)

/-- The brightness-adjusted sample: `clamp(floor(v × BQ / 256), 0, 255)` (41_tone_binarize.md R92). -/
def brightSample (bq : Half) (v : Byte) : Byte :=
  toSample (((v.toNat : Int) * (bq.toNat : Int)) / 256)

/-- The body of ADJC, in place over every active GRAY cell (41_tone_binarize.md R91). -/
def adjcBody (s : State) : State := s.putGray (s.grayFrame.map (contrastSample s.regs.contrast))

/-- The body of ADJB, in place over every active GRAY cell (41_tone_binarize.md R92). -/
def adjbBody (s : State) : State := s.putGray (s.grayFrame.map (brightSample s.regs.bright))

/-- ADJC (41_tone_binarize.md R91). -/
def execAdjc (s : State) : Host.Outcome State Fault Refusal :=
  .next (frameCommand (encode .adjc) adjcBody s)

/-- ADJB (41_tone_binarize.md R92). -/
def execAdjb (s : State) : Host.Outcome State Fault Refusal :=
  .next (frameCommand (encode .adjb) adjbBody s)

end Sys2Proof.Machine
end

