-- ==== Sys2Proof/Machine/Pipeline.lean ====
section
/-! DEFINITION. The converter pipeline, the length check, the serializer and housekeeping: CONVERT,
VERIFY, STREAM, NOP, RESET (42_pipeline_serializer.md). -/

namespace Sys2Proof.Machine

/-- The multiplier 1.0 in Q8.8 (30_encoding.md R71). -/
def one88 : Half := 0x0100

/-- Step 4: contrast, if it is not 1.0 (42_pipeline_serializer.md R110). -/
def step4 (s : State) : State := if s.regs.contrast ≠ one88 then adjcBody s else s

/-- Step 5: brightness, if it is not 1.0 (42_pipeline_serializer.md R110). -/
def step5 (s : State) : State := if s.regs.bright ≠ one88 then adjbBody s else s

/-- Step 7: inversion, if requested (42_pipeline_serializer.md R110). -/
def step7 (s : State) : State := if s.regs.invert then invertBody s else s

/-- Steps 4 to 8, each over the whole frame before the next starts (42_pipeline_serializer.md R110). -/
def convertBody (s : State) : State := packBody (step7 (binarizeBody (step5 (step4 s))))

/-- The body of STREAM: PACKED cells 0 .. LEN - 1 in ascending order (42_pipeline_serializer.md R116). -/
def streamBody (s : State) : State := s.emit s.packedFrame

/-- CONVERT: steps 4 to 8, then step 9, the length check (42_pipeline_serializer.md R110). -/
def execConvert (s : State) : Host.Outcome State Fault Refusal :=
  .next (frameCommand (encode .convert)
    (fun s => (convertBody s).sizeCheck .converter (encode .convert)) s)

/-- VERIFY: the length check alone, no dimension check (42_pipeline_serializer.md R113). -/
def execVerify (s : State) : Host.Outcome State Fault Refusal :=
  .next (unlessFaulted (fun s => s.sizeCheck .converter (encode .verify)) s)

/-- STREAM (42_pipeline_serializer.md R116). -/
def execStream (s : State) : Host.Outcome State Fault Refusal :=
  .next (frameCommand (encode .stream) streamBody s)

/-- NOP: nothing, in any state (42_pipeline_serializer.md R119). -/
def execNop (s : State) : Host.Outcome State Fault Refusal := .next (unlessFaulted (fun s => s) s)

/-- RESET: the one command that runs while STATUS.FAULT ≠ 0 (42_pipeline_serializer.md R121,
60_exceptions.md R158 line 1). -/
def execReset (s : State) : Host.Outcome State Fault Refusal := .next s.recover

end Sys2Proof.Machine
end

