-- ==== Sys2Proof/Machine/Dispatch.lean ====
section
/-! DEFINITION. exec: what a write of each command's word to CMD does. -/

namespace Sys2Proof.Machine

def exec (i : Instr) (s : State) : Host.Outcome State Fault Refusal :=
  match i with
  | .nop => Sys2Proof.Machine.execNop s
  | .pack => Sys2Proof.Machine.execPack s
  | .unpack => Sys2Proof.Machine.execUnpack s
  | .adjc => Sys2Proof.Machine.execAdjc s
  | .adjb => Sys2Proof.Machine.execAdjb s
  | .binThr => Sys2Proof.Machine.execBinThr s
  | .binFs => Sys2Proof.Machine.execBinFs s
  | .binarize => Sys2Proof.Machine.execBinarize s
  | .invert => Sys2Proof.Machine.execInvert s
  | .convert => Sys2Proof.Machine.execConvert s
  | .verify => Sys2Proof.Machine.execVerify s
  | .stream => Sys2Proof.Machine.execStream s
  | .patWhite => Sys2Proof.Machine.execPatWhite s
  | .patBlack => Sys2Proof.Machine.execPatBlack s
  | .patChecker => Sys2Proof.Machine.execPatChecker s
  | .patStripesH => Sys2Proof.Machine.execPatStripesH s
  | .patStripesV => Sys2Proof.Machine.execPatStripesV s
  | .patGradient => Sys2Proof.Machine.execPatGradient s
  | .patBorder => Sys2Proof.Machine.execPatBorder s
  | .patGrid => Sys2Proof.Machine.execPatGrid s
  | .patSplit => Sys2Proof.Machine.execPatSplit s
  | .patText => Sys2Proof.Machine.execPatText s
  | .reset => Sys2Proof.Machine.execReset s

end Sys2Proof.Machine
end

