-- ==== Sys2Proof/Machine/HostPort.lean ====
section
/-! DEFINITION. The host's ports: register reads and writes (10_state.md R12), cell reads and writes
(20_memory.md R42, R43), errors (R44), the reset input and the reception of OUT (R41). -/

namespace Sys2Proof.Machine

/-- The number of registers (10_state.md R12). -/
def numRegs : Nat := 12

/-- The number of CMD (10_state.md R23). -/
def cmdReg : Nat := 3

/-- STATUS as a word: FAULT in bits 3:0, WARN_SIZE in bit 4, reserved bits 0 (10_state.md R12, R14). -/
def Regs.status (r : Regs) : Word :=
  (0 : BitVec 27) ++ BitVec.ofBool r.warnSize ++ r.fault.code

/-- MODE as a word: INVERT in bit 0, DITHER in bit 1, reserved bits 0 (10_state.md R12, R22). -/
def Regs.mode (r : Regs) : Word :=
  (0 : BitVec 30) ++ BitVec.ofBool r.dither ++ BitVec.ofBool r.invert

/-- A register's word as a read assembles it: fields at the low end, reserved bits 0, CMD 0, PLEN
computed; `none` for a number that does not exist (10_state.md R12, R23, R24, 20_memory.md R42, R44). -/
def State.readReg (s : State) : Nat → Option Word
  | 0 => some ((BitVec.ofBool s.regs.strict).zeroExtend 32)
  | 1 => some s.regs.status
  | 2 => some s.regs.faultInfo
  | 3 => some 0
  | 4 => some (s.regs.width.zeroExtend 32)
  | 5 => some (s.regs.height.zeroExtend 32)
  | 6 => some s.regs.expLen
  | 7 => some (BitVec.ofNat 32 s.plen)
  | 8 => some (s.regs.threshold.zeroExtend 32)
  | 9 => some (s.regs.contrast.zeroExtend 32)
  | 10 => some (s.regs.bright.zeroExtend 32)
  | 11 => some s.regs.mode
  | _ => none

/-- A write to a register other than CMD: writable fields take their bits of `v`; read-only fields and
reserved bits ignore them; a 1 in bit 4 clears WARN_SIZE (10_state.md R12, R14, 20_memory.md R43). -/
def Regs.write (r : Regs) (n : Nat) (v : Word) : Regs :=
  match n with
  | 0 => { r with strict := v.getLsbD 0 }
  | 1 => { r with warnSize := r.warnSize && !v.getLsbD 4 }
  | 4 => { r with width := v.extractLsb' 0 16 }
  | 5 => { r with height := v.extractLsb' 0 16 }
  | 6 => { r with expLen := v }
  | 8 => { r with threshold := v.extractLsb' 0 8 }
  | 9 => { r with contrast := v.extractLsb' 0 16 }
  | 10 => { r with bright := v.extractLsb' 0 16 }
  | 11 => { r with invert := v.getLsbD 0, dither := v.getLsbD 1 }
  | _ => r

/-- Records the answer to the host's move. -/
def State.answer (a : Answer) (s : State) : State := { s with answers := s.answers ++ [a] }

/-- Takes the host's next move off the script. -/
def State.nextMove (s : State) : State := { s with script := s.script.tail }

/-- The answer to a read of an optional value: the value, or the error response (20_memory.md R44). -/
def State.answerReg (s : State) : Option Word → State
  | some v => s.answer (.word v)
  | none => s.answer .error

/-- An access to cell `i` of a space of `n` cells: `ok` when the cell exists, else the error response and
no other change (20_memory.md R44). -/
def State.inRange (n i : Nat) (ok : State → State) (s : State) : State :=
  if i < n then ok s else s.answer .error

/-- The effect of one host move that is not a write to CMD (20_memory.md R41 to R44). -/
def State.portMove (m : HostMove) (s : State) : State :=
  match m with
  | .rd r => s.answerReg (s.readReg r)
  | .wr r v => s.inRange numRegs r fun s => { s with regs := s.regs.write r v }.answer .done
  | .ldG i => s.inRange s.params.npix i fun s => s.answer (.byte (s.grayAt i))
  | .ldM i => s.inRange s.params.npix i fun s => s.answer (.bit (s.monoAt i))
  | .ldP i => s.inRange s.params.npack i fun s => s.answer (.byte (s.packedAt i))
  | .stG i v => s.inRange s.params.npix i fun s => (s.writeGray i (v.extractLsb' 0 8)).answer .done
  | .stM i v => s.inRange s.params.npix i fun s => (s.writeMono i (v.getLsbD 0)).answer .done
  | .stP i v => s.inRange s.params.npack i fun s => (s.writePacked i (v.extractLsb' 0 8)).answer .done
  | .hardReset => s.hardReset.answer .done
  | .consume => { s with taken := s.out.length }.answer (.bytes (s.out.drop s.taken))

/-- The command word of a move that writes CMD (10_state.md R23). -/
def commandWord? : HostMove → Option Word
  | .wr r v => if r = cmdReg then some v else none
  | _ => none

end Sys2Proof.Machine
end

