-- ==== Sys2Proof/Machine/Step.lean ====
section
/-! DEFINITION. One step: the host's next move (20_memory.md R41, R52). -/

namespace Sys2Proof.Machine

/-- What a write of the word `w` to CMD does (60_exceptions.md R158). -/
def command (w : Word) (s : State) : Host.Outcome State Fault Refusal :=
  match decode w with
  | .ok i => exec i s
  | .error _ => .next (illegalCommand w s)

/-- One step of the machine: the next move of the host's script, taken off the script and performed as
one atomic step (log entries 3, 6). With no move to come the BPU does nothing (20_memory.md R41; DESIGN
CHOICE, log entry 4, safe). -/
def step (s : State) : Host.Outcome State Fault Refusal :=
  match s.script with
  | [] => .next s
  | m :: _ =>
    match commandWord? m with
    | some w => command w (s.nextMove.answer .done)
    | none => .next (s.nextMove.portMove m)

/-- `s` with a write of this word to CMD as the host's very next move. -/
def State.withFetchWord (s : State) (nbits w : Nat) : State :=
  { s with script := .wr cmdReg (tableWord nbits w) :: s.script }

end Sys2Proof.Machine
end

