-- ==== Sys2Proof/Machine/Script.lean ====
section
/-! DEFINITION. The pseudo-instructions of the host script notation (30_encoding.md R72, R73). They are
lists of host moves and add nothing to the hardware. -/

namespace Sys2Proof.Machine.Script

/-- A number of the script as a 32-bit value. -/
def value (n : Nat) : Word := BitVec.ofNat 32 n

/-- `<MNEMONIC>`: `WR CMD, <full word>`. -/
def command (i : Instr) : HostMove := .wr 3 (encode i)

/-- `SETDIM w, h`. -/
def setdim (w h : Nat) : List HostMove :=
  [.wr 4 (value w), .wr 5 (value h), .wr 6 (value (packedLen w h))]

/-- `CONFIG t, cq, bq, inv, dith`. -/
def config (t cq bq inv dith : Nat) : List HostMove :=
  [.wr 8 (value t), .wr 9 (value cq), .wr 10 (value bq), .wr 11 (value (inv + 2 * dith))]

/-- `DEFAULTS`. -/
def defaults : List HostMove := config 128 0x0100 0x0100 0 0

/-- The values of a list to the cells 0, 1, 2, … by one move each. -/
def load (st : Nat → Word → HostMove) (vs : List Nat) : List HostMove :=
  ((List.range vs.length).zip vs).map fun iv => st iv.1 (value iv.2)

/-- `LOADG v0 v1 … vn`. -/
def loadg (vs : List Nat) : List HostMove := load .stG vs

/-- `LOADM b0 b1 … bn`. -/
def loadm (vs : List Nat) : List HostMove := load .stM vs

/-- `LOADP v0 v1 … vn`. -/
def loadp (vs : List Nat) : List HostMove := load .stP vs

/-- `CLRWARN`. -/
def clrwarn : List HostMove := [.wr 1 0x00000010]

/-- `PAT <name>`, by the pattern's number (30_encoding.md R63): `WR CMD` of the word with that `pat`. -/
def pat (p : BitVec 4) : HostMove := .wr 3 ((0 : BitVec 20) ++ p ++ patOp)

end Sys2Proof.Machine.Script
end

