-- ==== Sys2Proof/Safety.lean ====
section
/-! DEFINITION. What claims about the BPU are stated in: when a command runs, the invariants of the
machine, and a safe run. -/

namespace Sys2Proof.Machine

/-- WIDTH and HEIGHT are valid: `1 ≤ W ≤ WMAX` and `1 ≤ H ≤ HMAX` (10_state.md R16, R17). -/
abbrev State.validDims (s : State) : Prop :=
  1 ≤ s.w ∧ s.w ≤ s.params.wmax ∧ 1 ≤ s.h ∧ s.h ≤ s.params.hmax

/-- A frame command runs its body: no fault, valid dimensions (60_exceptions.md R158). -/
abbrev State.ready (s : State) : Prop := s.regs.fault = .none ∧ s.validDims

/-- The frame commands (30_encoding.md R66): all but NOP, VERIFY and RESET. -/
def isFrame : Instr → Bool
  | .nop => false
  | .pack => true
  | .unpack => true
  | .adjc => true
  | .adjb => true
  | .binThr => true
  | .binFs => true
  | .binarize => true
  | .invert => true
  | .convert => true
  | .verify => false
  | .stream => true
  | .patWhite => true
  | .patBlack => true
  | .patChecker => true
  | .patStripesH => true
  | .patStripesV => true
  | .patGradient => true
  | .patBorder => true
  | .patGrid => true
  | .patSplit => true
  | .patText => true
  | .reset => false

/-- The commands that run the length check (60_exceptions.md R150): CONVERT, VERIFY and every PAT. -/
def checksLength : Instr → Bool
  | .nop => false
  | .pack => false
  | .unpack => false
  | .adjc => false
  | .adjb => false
  | .binThr => false
  | .binFs => false
  | .binarize => false
  | .invert => false
  | .convert => true
  | .verify => true
  | .stream => false
  | .patWhite => true
  | .patBlack => true
  | .patChecker => true
  | .patStripesH => true
  | .patStripesV => true
  | .patGradient => true
  | .patBorder => true
  | .patGrid => true
  | .patSplit => true
  | .patText => true
  | .reset => false

/-- The state is one the machine can be in: parameters in their range (00_scope.md R5), memories in
canonical form with no cell outside their spaces (20_memory.md R40), and the consumer has received no
more than was emitted. -/
abbrev State.Inv (s : State) : Prop :=
  s.params.wf ∧ Memory.wf s.params.npix s.gray ∧ Memory.wf s.params.npix s.mono ∧
    Memory.wf s.params.npack s.packed ∧ s.taken ≤ s.out.length

/-- FAULTINFO tells which command raised the fault of STATUS.FAULT, and is 0 when there is none
(10_state.md R15, 60_exceptions.md R150): BAD_DIM a frame command, SIZE_MISMATCH a command that checks the
length, ILLEGAL_CMD a word that is no command. -/
def State.faultRecorded (s : State) : Bool :=
  match s.regs.fault, decode s.regs.faultInfo with
  | .none, _ => decide (s.regs.faultInfo = 0)
  | .badDim, .ok i => isFrame i
  | .badDim, .error _ => false
  | .sizeMismatch, .ok i => checksLength i
  | .sizeMismatch, .error _ => false
  | .illegalCmd, .ok _ => false
  | .illegalCmd, .error _ => true

/-- A safe run of `k` steps: no step stops, and no state on the way is faulted: "a model treats a state with
FAULT ≠ 0 as a failed run" (60_exceptions.md R160). -/
def State.runsSafely (k : Nat) (s : State) : Prop :=
  ∀ j, j ≤ k → ∃ t, Sys2Proof.core.run j s = .next t ∧ t.regs.fault = .none

end Sys2Proof.Machine
end

