-- ==== Sys2Proof/Certificates/Slice0/Obligations.lean ====
section
/-! DEFINITION. The statements about the BPU, from the numbered rules of the spec. Every statement holds for
every value of the free values of Config and for every instance of the build-time parameters. -/

open Sys2Proof Sys2Proof.Machine

namespace Sys2Proof.Spec

/-! ## The vocabulary of the statements, written from the rules and not from the meanings -/

/-- Fault entry: STATUS.FAULT and FAULTINFO written, all else as it was (60_exceptions.md R159). -/
def faulted (s : State) (code : FaultCode) (w : Word) : State :=
  { s with regs := { s.regs with fault := code, faultInfo := w } }

/-- The host's move has been taken off the script and answered, both the model's own record (log entries 3
and 5); nothing else has changed. -/
def answered (s : State) (rest : List HostMove) (a : Answer) : State :=
  { s with script := rest, answers := s.answers ++ [a] }

/-- The rule of the frame command `i` with command word `word` that leaves a state with `post` when it runs:
the word decodes to it; it runs when no fault stands and the dimensions are valid; with invalid ones it takes
BAD_DIM, with its word as information, and does nothing else. -/
def FrameCommand (i : Instr) (word : Word) (post : State → State → Prop) : Prop :=
  decode word = .ok i ∧
  ∀ s : State, s.regs.fault = .none →
    (s.validDims → ∃ t, exec i s = .next t ∧ post s t) ∧
    (¬ s.validDims → exec i s = .next (faulted s .badDim word))

/-- The bytes `b` are the packed form of the predicate `p`: bit `7 - k` of byte `(y, c)` is pixel `8c + k`,
and 0 where there is no such pixel (30_encoding.md R69). -/
def PackedAs (w h : Nat) (p : Nat → Nat → Bool) (b : Nat → Byte) : Prop :=
  ∀ y, y < h → ∀ c, c < bpr w → ∀ k, k < 8 →
    (b (y * bpr w + c)).getLsbD (7 - k) = (if 8 * c + k < w then p (8 * c + k) y else false)

/-- The cells of MONO outside the active area read as before (10_state.md R31). -/
def MonoKeptOutside (s t : State) : Prop := ∀ k, s.w * s.h ≤ k → t.monoAt k = s.monoAt k

/-- The cells of PACKED outside the active area read as before (10_state.md R31). -/
def PackedKeptOutside (s t : State) : Prop := ∀ k, s.plen ≤ k → t.packedAt k = s.packedAt k

/-- The contrast map of 41_tone_binarize.md R91 on integers. -/
def contrast (cq v : Int) : Int := max 0 (min 255 ((128 * 256 + (v - 128) * cq) / 256))

/-- The brightness map of 41_tone_binarize.md R92 on integers. -/
def bright (bq v : Int) : Int := max 0 (min 255 (v * bq / 256))

/-- The error that reaches pixel `(x, y)` from its neighbours, each share floored, when `e` gives every
pixel's quantisation error (41_tone_binarize.md R96): from the left 7/16, from above 5/16, from above left
1/16, from above right 3/16. -/
def incoming (w : Nat) (e : Nat → Nat → Int) (x y : Nat) : Int :=
  (if 1 ≤ x then 7 * e (x - 1) y / 16 else 0) + (if 1 ≤ y then 5 * e x (y - 1) / 16 else 0) +
    (if 1 ≤ x ∧ 1 ≤ y then e (x - 1) (y - 1) / 16 else 0) +
    (if x + 1 < w ∧ 1 ≤ y then 3 * e (x + 1) (y - 1) / 16 else 0)

/-- The decisions `black` solve the error-diffusion equations of 41_tone_binarize.md R96 on the samples
`gray` of a `w × h` frame. -/
def Diffused (w h : Nat) (gray : Nat → Byte) (black : Nat → Bool) : Prop :=
  ∃ e old : Nat → Nat → Int, ∀ y, y < h → ∀ x, x < w →
    old x y = max 0 (min 255 (((gray (y * w + x)).toNat : Int) + incoming w e x y)) ∧
    e x y = (if old x y < 128 then old x y else old x y - 255) ∧
    black (y * w + x) = decide (old x y < 128)

/-- The rule of a PAT command with predicate `p` (43_patterns.md R126): predicate into MONO, its packed form
into PACKED, then the length check, which is a fault whatever CTRL.STRICT is. -/
def Pattern (i : Instr) (word : Word) (p : Nat → Nat → Nat → Nat → Prop) : Prop :=
  FrameCommand i word fun s t =>
    t = { s with regs := t.regs, mono := t.mono, packed := t.packed } ∧
    (∀ y, y < s.h → ∀ x, x < s.w → (t.monoAt (y * s.w + x) = true ↔ p s.w s.h x y)) ∧
    PackedAs s.w s.h (fun x y => t.monoAt (y * s.w + x)) t.packedAt ∧
    MonoKeptOutside s t ∧ PackedKeptOutside s t ∧
    (s.plen = s.regs.expLen.toNat → t.regs = s.regs) ∧
    (s.plen ≠ s.regs.expLen.toNat →
      t.regs = { s.regs with fault := .sizeMismatch, faultInfo := word })

/-- The number of a fault code (60_exceptions.md R150). -/
def faultNumber : FaultCode → Nat
  | .none => 0
  | .badDim => 1
  | .sizeMismatch => 2
  | .illegalCmd => 3

/-- What register `r` reads as, as a number (10_state.md R12 to R24). -/
def regValue (s : State) : Nat → Nat
  | 0 => s.regs.strict.toNat
  | 1 => faultNumber s.regs.fault + 16 * s.regs.warnSize.toNat
  | 2 => s.regs.faultInfo.toNat
  | 4 => s.regs.width.toNat
  | 5 => s.regs.height.toNat
  | 6 => s.regs.expLen.toNat
  | 7 => (s.regs.width.toNat + 7) / 8 * s.regs.height.toNat
  | 8 => s.regs.threshold.toNat
  | 9 => s.regs.contrast.toNat
  | 10 => s.regs.bright.toNat
  | 11 => s.regs.invert.toNat + 2 * s.regs.dither.toNat
  | _ => 0

/-- What register `r` reads as after the host has written the number `v` to it (10_state.md R12, R14, R15,
R24): fields truncated, STATUS write-1-to-clear, FAULTINFO and PLEN not changed. -/
def regAfterWrite (s : State) (v : Nat) : Nat → Nat
  | 0 => v % 2
  | 1 => faultNumber s.regs.fault + 16 * (if v / 16 % 2 = 1 then 0 else s.regs.warnSize.toNat)
  | 4 => v % 65536
  | 5 => v % 65536
  | 6 => v
  | 8 => v % 256
  | 9 => v % 65536
  | 10 => v % 65536
  | 11 => v % 4
  | r => regValue s r

/-- The configuration registers of 10_state.md R26. -/
def config (s : State) : Bool × Half × Half × Word × Byte × Half × Half × Bool × Bool :=
  (s.regs.strict, s.regs.width, s.regs.height, s.regs.expLen, s.regs.threshold, s.regs.contrast,
    s.regs.bright, s.regs.invert, s.regs.dither)

/-- The host's single commands that stand for CONVERT (42_pipeline_serializer.md R112). -/
def convertScript (s : State) : List HostMove :=
  (if s.regs.contrast = 0x0100 then [] else [Script.command .adjc]) ++
    ((if s.regs.bright = 0x0100 then [] else [Script.command .adjb]) ++
      (Script.command .binarize ::
        ((if s.regs.invert = true then [Script.command .invert] else []) ++
          [Script.command .pack, Script.command .verify])))

/-- The word of the first of them. -/
def convertScriptFirst (s : State) : Word :=
  if s.regs.contrast = 0x0100 then (if s.regs.bright = 0x0100 then 0x00000014 else 0x00000011)
  else 0x00000010

/-- The registers after a reset (10_state.md R35). -/
def ResetRegs (p : Params) (r : Regs) : Prop :=
  r.strict = true ∧ r.fault = .none ∧ r.warnSize = false ∧ r.faultInfo = 0 ∧
    r.width.toNat = p.wmax ∧ r.height.toNat = p.hmax ∧
    r.expLen.toNat = (p.wmax + 7) / 8 * p.hmax ∧
    r.threshold = 128 ∧ r.contrast = 0x0100 ∧ r.bright = 0x0100 ∧ r.invert = false ∧ r.dither = false

end Sys2Proof.Spec

open Sys2Proof.Spec

/-! ## Reset -/

/-- 10_state.md R35: the registers after a hardware reset, OUT empty, the frame cells unspecified (each
reads as the free value of its reset, whatever that is), and what the RESET command does in comparison. That
State.reset is the production instance, and that a cell without a value is one no list names, is the model's
choice (log entries 1, 2). -/
def Obligations.ResetValuesOfTheState : Prop :=
  State.reset = State.resetOf { wmax := 1600, hmax := 1200 } ∧
  (∀ p : Params, p.wf →
    ResetRegs p (State.resetOf p).regs ∧ (State.resetOf p).out = [] ∧
    ∀ i, Memory.cell? (State.resetOf p).gray i = none ∧ Memory.cell? (State.resetOf p).mono i = none ∧
      Memory.cell? (State.resetOf p).packed i = none) ∧
  (∀ s : State, s.params.wf → ∃ t, exec .reset s = .next t ∧ ResetRegs s.params t.regs ∧
    t = { s with regs := t.regs })

/-- 70_reset_and_hazards.md R171, R173: a hardware reset from any state, as one step. That the host's own
record (script, answers) goes on, that `taken` restarts and that the parameters stay is the model's choice
(log entries 2, 5, 17). -/
def Obligations.HardwareResetFromAnyState : Prop :=
  ∀ (s : State) (rest : List HostMove), s.params.wf →
    ∃ t, step { s with script := .hardReset :: rest } = .next t ∧
      ResetRegs s.params t.regs ∧ t.out = [] ∧
      (∀ i, t.grayAt i = Config.unwrittenGray (s.resets + 1) i ∧
        t.monoAt i = Config.unwrittenMono (s.resets + 1) i ∧
        t.packedAt i = Config.unwrittenPacked (s.resets + 1) i) ∧
      t.params = s.params ∧ t.script = rest ∧ t.answers = s.answers ++ [.done] ∧ t.taken = 0

/-- 42_pipeline_serializer.md R121: RESET restores the registers, faulted or not, and touches nothing else;
no other command runs while STATUS.FAULT ≠ 0. -/
def Obligations.ResetCommandRestoresRegisters : Prop :=
  decode 0x0000007F = .ok .reset ∧
  (∀ s : State, exec .reset s = .next { s with
    regs :=
      { strict := true, fault := .none, warnSize := false, faultInfo := 0,
        width := BitVec.ofNat 16 s.params.wmax, height := BitVec.ofNat 16 s.params.hmax,
        expLen := BitVec.ofNat 32 ((s.params.wmax + 7) / 8 * s.params.hmax),
        threshold := 128, contrast := 0x0100, bright := 0x0100, invert := false, dither := false } }) ∧
  (∀ (i : Instr) (s : State), i ≠ .reset → s.regs.fault ≠ .none → exec i s = .next s)

/-- 42_pipeline_serializer.md R119: NOP changes nothing, in any state. -/
def Obligations.NopChangesNothing : Prop :=
  decode 0x00000000 = .ok .nop ∧ ∀ s : State, exec .nop s = .next s

/-! ## Decoding and dispatch -/

/-- Words written out from 30_encoding.md R60, R62, R63 decode to their commands. -/
def Obligations.TableWordsDecode : Prop :=
  decode 0b00000000000000000000000000000000 = .ok .nop ∧
  decode 0b00000000000000000000000000000010 = .ok .unpack ∧
  decode 0b00000000000000000000000000010001 = .ok .adjb ∧
  decode 0b00000000000000000000000000010011 = .ok .binFs ∧
  decode 0b00000000000000000000000000100010 = .ok .stream ∧
  decode 0b00000000000000000000010100110000 = .ok .patGradient ∧
  decode 0b00000000000000000000000001111111 = .ok .reset ∧
  decode 0b00000000000000000000101000110000 = .error .unknownPattern ∧
  decode 0b00000000000000010000000001111111 = .error .reservedBits

/-- 30_encoding.md R61: the lines of the decoding rule, with the tables of R62 and R63 written out. -/
def Obligations.DecodeFollowsTheRule : Prop :=
  ∀ w : Word,
    (w.toNat / 4096 ≠ 0 → decode w = .error .reservedBits) ∧
    (w.toNat / 4096 = 0 →
      (w.toNat % 256 ∉ [0x00, 0x01, 0x02, 0x10, 0x11, 0x12, 0x13, 0x14, 0x15, 0x20, 0x21, 0x22, 0x30,
          0x7F] → decode w = .error .unknownOp) ∧
      (w.toNat % 256 = 0x30 →
        (10 ≤ w.toNat / 256 → decode w = .error .unknownPattern) ∧
        (∀ i, [Instr.patWhite, .patBlack, .patChecker, .patStripesH, .patStripesV, .patGradient,
            .patBorder, .patGrid, .patSplit, .patText][w.toNat / 256]? = some i → decode w = .ok i)) ∧
      (∀ i, (w.toNat % 256, i) ∈ [(0x00, Instr.nop), (0x01, .pack), (0x02, .unpack), (0x10, .adjc),
            (0x11, .adjb), (0x12, .binThr), (0x13, .binFs), (0x14, .binarize), (0x15, .invert),
            (0x20, .convert), (0x21, .verify), (0x22, .stream), (0x7F, .reset)] →
        (w.toNat / 256 ≠ 0 → decode w = .error .patternNotZero) ∧
        (w.toNat / 256 = 0 → decode w = .ok i)))

/-- 30_encoding.md R61: "Exactly 23 of the 2^32 words decode to a command": a word decodes to a command if
and only if it is that command's word. -/
def Obligations.DecodeInvertsEncodeExactly : Prop :=
  ∀ (w : Word) (i : Instr), decode w = .ok i ↔ w = encode i

/-- 10_state.md R23: a host write to CMD of a word that decodes to `i` is, as a step, the execution of `i`,
the move being taken off the script and answered first. -/
def Obligations.StepRunsTheDecodedCommand : Prop :=
  ∀ (s : State) (w : Word) (rest : List HostMove) (i : Instr), decode w = .ok i →
    step { s with script := .wr 3 w :: rest } = exec i (answered s rest .done)

/-- 60_exceptions.md R153: an illegal word raises ILLEGAL_CMD with that word as information and does
nothing else, while no fault stands. -/
def Obligations.IllegalWordRaisesIllegalCmd : Prop :=
  ∀ (s : State) (w : Word) (rest : List HostMove) (e : Illegal), decode w = .error e →
    s.regs.fault = .none →
    step { s with script := .wr 3 w :: rest } =
      .next (faulted (answered s rest .done) .illegalCmd w)

/-- 60_exceptions.md R158: the order of the checks of one CMD write, for every word. What the body of a
command does is stated per command. -/
def Obligations.CommandWriteFollowsDispatchOrder : Prop :=
  ∀ (s : State) (w : Word) (rest : List HostMove),
    (w = 0x0000007F → ∃ t, step { s with script := .wr 3 w :: rest } = .next t ∧
      t = { answered s rest .done with regs := t.regs } ∧ t.regs.fault = .none) ∧
    (w ≠ 0x0000007F → s.regs.fault ≠ .none →
      step { s with script := .wr 3 w :: rest } = .next (answered s rest .done)) ∧
    (w ≠ 0x0000007F → s.regs.fault = .none →
      ((∀ i, decode w ≠ .ok i) →
        step { s with script := .wr 3 w :: rest } =
          .next (faulted (answered s rest .done) .illegalCmd w)) ∧
      (∀ i, decode w = .ok i → isFrame i = true → ¬ s.validDims →
        step { s with script := .wr 3 w :: rest } =
          .next (faulted (answered s rest .done) .badDim w)) ∧
      (∀ i, decode w = .ok i → (isFrame i = true → s.validDims) →
        step { s with script := .wr 3 w :: rest } = exec i (answered s rest .done)))

/-- 20_memory.md R41: "the BPU itself does nothing between commands". That a step with no host move to come
leaves the state as it is is the model's choice (log entry 4). -/
def Obligations.StepWithoutMoveIsIdle : Prop :=
  ∀ s : State, s.script = [] → step s = .next s

/-- No step and no command ever stops the machine. For commands: 93_implementation_defined.md part 2, "every
command word in every state has exactly one outcome". For the other steps it is the model's choice that a step
without a host move is idle (log entry 4), that an access out of range is answered by a next state (log entry
7), and, over all, that the type of faults is empty (log entry 12). -/
def Obligations.NoStepAndNoCommandStops : Prop :=
  (∀ s : State, ∃ t, step s = .next t) ∧ (∀ (i : Instr) (s : State), ∃ t, exec i s = .next t)

/-! ## The host's ports -/

/-- 10_state.md R12, 20_memory.md R42: what each of the twelve registers reads as; a read changes nothing
but the host's own record. -/
def Obligations.RegisterReadAnswersFields : Prop :=
  ∀ (s : State) (rest : List HostMove) (r : Nat), r < 12 →
    ∃ v : Word, step { s with script := .rd r :: rest } = .next (answered s rest (.word v)) ∧
      v.toNat = regValue s r

/-- 10_state.md R24: PLEN reads `BPR(WIDTH.W) × HEIGHT.H` with no overflow, for every stored W and H, and a
host write to it is ignored. -/
def Obligations.PlenReadsTheComputedLength : Prop :=
  ∀ (s : State) (rest : List HostMove),
    (∃ v : Word, step { s with script := .rd 7 :: rest } = .next (answered s rest (.word v)) ∧
      v.toNat = (s.regs.width.toNat + 7) / 8 * s.regs.height.toNat ∧ v.toNat ≤ 536862720) ∧
    (∀ x : Word, step { s with script := .wr 7 x :: rest } = .next (answered s rest .done))

/-- 10_state.md R12, R14, 20_memory.md R43: a host write to a register other than CMD stores each field
truncated, clears WARN_SIZE by a 1 in STATUS bit 4, leaves FAULT, FAULTINFO and every other register as they
were (PLEN follows WIDTH and HEIGHT), and touches nothing but registers, whatever STATUS.FAULT is. -/
def Obligations.RegisterWriteStoresTruncatedFields : Prop :=
  ∀ (s : State) (rest : List HostMove) (r : Nat) (v : Word), r < 12 → r ≠ 3 →
    ∃ t, step { s with script := .wr r v :: rest } = .next t ∧
      t = { answered s rest .done with regs := t.regs } ∧
      t.regs.fault = s.regs.fault ∧ t.regs.faultInfo = s.regs.faultInfo ∧
      regValue t r = regAfterWrite s v.toNat r ∧
      (∀ q, q < 12 → q ≠ r → q ≠ 7 → regValue t q = regValue s q)

/-- 20_memory.md R42, R43: a store of one cell and a load of one cell, in each of the three spaces; the value
is truncated to the cell's width, every other cell reads as before, a load changes nothing. -/
def Obligations.CellStoreAndLoad : Prop :=
  ∀ (s : State) (rest : List HostMove) (i : Nat) (v : Word),
    (i < s.params.npix →
      (∃ t, step { s with script := .stG i v :: rest } = .next t ∧
        t = { answered s rest .done with gray := t.gray } ∧
        ∀ j, t.grayAt j = if j = i then BitVec.ofNat 8 (v.toNat % 256) else s.grayAt j) ∧
      (∃ t, step { s with script := .stM i v :: rest } = .next t ∧
        t = { answered s rest .done with mono := t.mono } ∧
        ∀ j, t.monoAt j = if j = i then decide (v.toNat % 2 = 1) else s.monoAt j) ∧
      step { s with script := .ldG i :: rest } = .next (answered s rest (.byte (s.grayAt i))) ∧
      step { s with script := .ldM i :: rest } = .next (answered s rest (.bit (s.monoAt i)))) ∧
    (i < s.params.npack →
      (∃ t, step { s with script := .stP i v :: rest } = .next t ∧
        t = { answered s rest .done with packed := t.packed } ∧
        ∀ j, t.packedAt j = if j = i then BitVec.ofNat 8 (v.toNat % 256) else s.packedAt j) ∧
      step { s with script := .ldP i :: rest } = .next (answered s rest (.byte (s.packedAt i))))

/-- 20_memory.md R44: an access outside its space's range is answered with an error and changes no state. -/
def Obligations.AccessOutOfRangeIsAnError : Prop :=
  ∀ (s : State) (rest : List HostMove) (i : Nat) (v : Word),
    (12 ≤ i → step { s with script := .rd i :: rest } = .next (answered s rest .error) ∧
      step { s with script := .wr i v :: rest } = .next (answered s rest .error)) ∧
    (s.params.npix ≤ i → step { s with script := .ldG i :: rest } = .next (answered s rest .error) ∧
      step { s with script := .stG i v :: rest } = .next (answered s rest .error) ∧
      step { s with script := .ldM i :: rest } = .next (answered s rest .error) ∧
      step { s with script := .stM i v :: rest } = .next (answered s rest .error)) ∧
    (s.params.npack ≤ i → step { s with script := .ldP i :: rest } = .next (answered s rest .error) ∧
      step { s with script := .stP i v :: rest } = .next (answered s rest .error))

/-- 20_memory.md R41, 10_state.md R30: the consumer receives the bytes appended to OUT since it last
received, in order, and OUT is not changed. The count of bytes already received is the model's own record
(log entry 5). -/
def Obligations.ConsumeDeliversTheNewBytes : Prop :=
  ∀ (s : State) (rest : List HostMove) (old new : List Byte), s.out = old ++ new →
    s.taken = old.length →
    step { s with script := .consume :: rest } =
      .next { answered s rest (.bytes new) with taken := s.out.length }

/-! ## Dimensions -/

/-- 60_exceptions.md R152: every frame command takes BAD_DIM, and does nothing else, when WIDTH or HEIGHT is
0 or exceeds the capacity, and in no other case. -/
def Obligations.FrameCommandsRejectBadDimensions : Prop :=
  ∀ (i : Instr) (s : State), isFrame i = true → s.regs.fault = .none →
    ((s.regs.width.toNat = 0 ∨ s.regs.height.toNat = 0 ∨ s.params.wmax < s.regs.width.toNat ∨
        s.params.hmax < s.regs.height.toNat) →
      exec i s = .next (faulted s .badDim (encode i))) ∧
    (¬ (s.regs.width.toNat = 0 ∨ s.regs.height.toNat = 0 ∨ s.params.wmax < s.regs.width.toNat ∨
        s.params.hmax < s.regs.height.toNat) →
      ∃ t, exec i s = .next t ∧ t.regs.fault ≠ .badDim)

/-! ## The codec -/

/-- 40_codec.md R81: PACK writes the packed form of the active MONO cells to PACKED cells 0 .. LEN - 1 and
changes nothing else. -/
def Obligations.PackWritesThePackedForm : Prop :=
  FrameCommand .pack 0x00000001 fun s t =>
    t = { s with packed := t.packed } ∧
    PackedAs s.w s.h (fun x y => s.monoAt (y * s.w + x)) t.packedAt ∧ PackedKeptOutside s t

/-- 40_codec.md R83: UNPACK writes every active MONO cell from its bit of PACKED and changes nothing else. -/
def Obligations.UnpackReadsThePixelBits : Prop :=
  FrameCommand .unpack 0x00000002 fun s t =>
    t = { s with mono := t.mono } ∧
    (∀ y, y < s.h → ∀ x, x < s.w →
      t.monoAt (y * s.w + x) = (s.packedAt (y * bpr s.w + x / 8)).getLsbD (7 - x % 8)) ∧
    MonoKeptOutside s t

/-- 40_codec.md R84 (1): UNPACK after PACK restores every MONO cell. -/
def Obligations.UnpackAfterPackRestoresMono : Prop :=
  ∀ s : State, s.ready →
    ∃ t u, exec .pack s = .next t ∧ exec .unpack t = .next u ∧ u.packed = t.packed ∧
      ∀ i, u.monoAt i = s.monoAt i

/-- 40_codec.md R84 (2): PACK after UNPACK restores the buffer, but for the pad bits, which it clears. -/
def Obligations.PackAfterUnpackRestoresPacked : Prop :=
  ∀ s : State, s.ready →
    ∃ t u, exec .unpack s = .next t ∧ exec .pack t = .next u ∧
      (∀ y, y < s.h → ∀ c, c < bpr s.w → ∀ k, k < 8 →
        (u.packedAt (y * bpr s.w + c)).getLsbD (7 - k) =
          (if 8 * c + k < s.w then (s.packedAt (y * bpr s.w + c)).getLsbD (7 - k) else false)) ∧
      (s.w % 8 = 0 → ∀ i, u.packedAt i = s.packedAt i)

/-- 10_state.md R29, R31: with valid dimensions the active cells lie inside their memories, and different
pixels, and different bytes, have different cells. -/
def Obligations.ActiveCellsFitAndAreDistinct : Prop :=
  ∀ s : State, s.validDims →
    s.plen ≤ s.params.npack ∧
    (∀ x y, x < s.w → y < s.h → y * s.w + x < s.w * s.h ∧ y * s.w + x < s.params.npix) ∧
    (∀ x y x' y', x < s.w → x' < s.w → y * s.w + x = y' * s.w + x' → x = x' ∧ y = y') ∧
    (∀ y c, c < bpr s.w → y < s.h → y * bpr s.w + c < s.plen) ∧
    (∀ y c y' c', c < bpr s.w → c' < bpr s.w → y * bpr s.w + c = y' * bpr s.w + c' → c = c' ∧ y = y')

/-! ## Tone and binarization -/

/-- 41_tone_binarize.md R91: ADJC replaces every active GRAY cell by its contrast-adjusted value. -/
def Obligations.ContrastAdjustsEveryActiveSample : Prop :=
  FrameCommand .adjc 0x00000010 fun s t =>
    t = { s with gray := t.gray } ∧
    (∀ i, i < s.w * s.h →
      ((t.grayAt i).toNat : Int) = contrast s.regs.contrast.toNat (s.grayAt i).toNat) ∧
    (∀ i, s.w * s.h ≤ i → t.grayAt i = s.grayAt i)

/-- 41_tone_binarize.md R92: ADJB replaces every active GRAY cell by its brightness-adjusted value. -/
def Obligations.BrightnessAdjustsEveryActiveSample : Prop :=
  FrameCommand .adjb 0x00000011 fun s t =>
    t = { s with gray := t.gray } ∧
    (∀ i, i < s.w * s.h →
      ((t.grayAt i).toNat : Int) = bright s.regs.bright.toNat (s.grayAt i).toNat) ∧
    (∀ i, s.w * s.h ≤ i → t.grayAt i = s.grayAt i)

/-- 41_tone_binarize.md R91 (a), (c), R92 (a), R93: both maps are non-decreasing, both are the identity at
1.0, and contrast fixes 128. -/
def Obligations.ToneMapsAreMonotoneAndFixed : Prop :=
  ∀ s : State, s.ready →
    ∃ c b, exec .adjc s = .next c ∧ exec .adjb s = .next b ∧
      (∀ i j, i < s.w * s.h → j < s.w * s.h → (s.grayAt i).toNat ≤ (s.grayAt j).toNat →
        (c.grayAt i).toNat ≤ (c.grayAt j).toNat ∧ (b.grayAt i).toNat ≤ (b.grayAt j).toNat) ∧
      (∀ i, i < s.w * s.h → s.grayAt i = 128 → c.grayAt i = 128) ∧
      (s.regs.contrast = 0x0100 → ∀ i, c.grayAt i = s.grayAt i) ∧
      (s.regs.bright = 0x0100 → ∀ i, b.grayAt i = s.grayAt i)

/-- 41_tone_binarize.md R94: BIN_THR makes an active pixel black if and only if its sample is below T. -/
def Obligations.ThresholdIsStrictlyBelow : Prop :=
  FrameCommand .binThr 0x00000012 fun s t =>
    t = { s with mono := t.mono } ∧
    (∀ i, i < s.w * s.h →
      (t.monoAt i = true ↔ (s.grayAt i).toNat < s.regs.threshold.toNat)) ∧
    MonoKeptOutside s t

/-- 41_tone_binarize.md R96: BIN_FS leaves in MONO a solution of the error-diffusion equations, each pixel
gathering the shares of its neighbours, on the active GRAY cells. -/
def Obligations.DitherSolvesTheDiffusionEquations : Prop :=
  FrameCommand .binFs 0x00000013 fun s t =>
    t = { s with mono := t.mono } ∧ Diffused s.w s.h s.grayAt t.monoAt ∧ MonoKeptOutside s t

/-- 41_tone_binarize.md R96: the diffusion equations determine the picture: what BIN_FS leaves in the active
MONO cells is their only solution on the active samples. -/
def Obligations.DiffusionEquationsDetermineThePicture : Prop :=
  ∀ s : State, s.ready →
    ∃ t, exec .binFs s = .next t ∧
      ∀ b : Nat → Bool, Diffused s.w s.h s.grayAt b ↔
        ∀ y, y < s.h → ∀ x, x < s.w → b (y * s.w + x) = t.monoAt (y * s.w + x)

/-- 41_tone_binarize.md R100: after every pixel of the scan each error cell lies in -128 .. 124, the sample
plus its error in -128 .. 379, and the quantisation error in -127 .. 127. -/
def Obligations.DitherErrorsStayInEightBits : Prop :=
  ∀ (w h : Nat) (gray : Array Byte) (k : Nat), k ≤ w * h → ∀ i,
    -128 ≤ (ditherScan w h gray k).err.getD i 0 ∧ (ditherScan w h gray k).err.getD i 0 ≤ 124 ∧
    -128 ≤ ((gray.getD i 0).toNat : Int) + (ditherScan w h gray k).err.getD i 0 ∧
    ((gray.getD i 0).toNat : Int) + (ditherScan w h gray k).err.getD i 0 ≤ 379 ∧
    -127 ≤ quantError (correctedSample gray (ditherScan w h gray k).err i) ∧
    quantError (correctedSample gray (ditherScan w h gray k).err i) ≤ 127

/-- 41_tone_binarize.md R99: writing THRESHOLD never changes the result of BIN_FS, nor of BINARIZE and
CONVERT in dither mode. -/
def Obligations.DitherIgnoresTheThreshold : Prop :=
  ∀ (i : Instr) (s : State) (v : Byte),
    i = .binFs ∨ ((i = .binarize ∨ i = .convert) ∧ s.regs.dither = true) →
    ∃ t, exec i s = .next t ∧
      exec i { s with regs := { s.regs with threshold := v } } =
        .next { t with regs := { t.regs with threshold := v } }

/-- 41_tone_binarize.md R97 (1): the dithered picture depends on W, H and the active GRAY cells alone: two
states that agree on these, and on nothing else, get the same active MONO cells. -/
def Obligations.DitherDependsOnTheFrameAlone : Prop :=
  ∀ s s' : State, s.ready → s'.ready → s.regs.width = s'.regs.width →
    s.regs.height = s'.regs.height → (∀ i, i < s.w * s.h → s.grayAt i = s'.grayAt i) →
    ∃ t t', exec .binFs s = .next t ∧ exec .binFs s' = .next t' ∧
      ∀ i, i < s.w * s.h → t.monoAt i = t'.monoAt i

/-- 41_tone_binarize.md R96 (a), (b): a uniform frame of 0 dithers to all black, one of 255 to all white, and
a frame of one pixel is a threshold at 128. -/
def Obligations.UniformFramesDitherToUniform : Prop :=
  ∀ s : State, s.ready →
    ∃ t, exec .binFs s = .next t ∧
      ((∀ i, i < s.w * s.h → s.grayAt i = 0) → ∀ i, i < s.w * s.h → t.monoAt i = true) ∧
      ((∀ i, i < s.w * s.h → s.grayAt i = 255) → ∀ i, i < s.w * s.h → t.monoAt i = false) ∧
      (s.w = 1 → s.h = 1 → t.monoAt 0 = decide ((s.grayAt 0).toNat < 128))

/-- 41_tone_binarize.md R98: BINARIZE is BIN_FS when MODE.DITHER = 1 and BIN_THR when it is 0; it writes MONO
only. -/
def Obligations.BinarizeSelectsTheMode : Prop :=
  FrameCommand .binarize 0x00000014 fun s t =>
    t = { s with mono := t.mono } ∧ MonoKeptOutside s t ∧
    (s.regs.dither = true → exec .binFs s = .next t ∧ Diffused s.w s.h s.grayAt t.monoAt) ∧
    (s.regs.dither = false → exec .binThr s = .next t ∧
      ∀ i, i < s.w * s.h → (t.monoAt i = true ↔ (s.grayAt i).toNat < s.regs.threshold.toNat))

/-- 41_tone_binarize.md R101: INVERT complements every active MONO cell, whatever MODE is. -/
def Obligations.InvertComplementsMono : Prop :=
  FrameCommand .invert 0x00000015 fun s t =>
    t = { s with mono := t.mono } ∧ (∀ i, i < s.w * s.h → t.monoAt i = !s.monoAt i) ∧
    MonoKeptOutside s t

/-! ## The pipeline, the length check, the serializer -/

/-- 42_pipeline_serializer.md R110 with MODE.DITHER = 0: what CONVERT leaves in each cell: the samples
adjusted by contrast and then brightness, the threshold decision, inverted if requested, its packed form;
then the length check. -/
def Obligations.ConvertInThresholdMode : Prop :=
  ∀ s : State, s.ready → s.regs.dither = false →
    ∃ t, exec .convert s = .next t ∧
      t = { s with regs := t.regs, gray := t.gray, mono := t.mono, packed := t.packed } ∧
      (∀ i, i < s.w * s.h →
        ((t.grayAt i).toNat : Int) =
          bright s.regs.bright.toNat (contrast s.regs.contrast.toNat (s.grayAt i).toNat) ∧
        t.monoAt i = (s.regs.invert ^^ decide ((t.grayAt i).toNat < s.regs.threshold.toNat))) ∧
      (∀ i, s.w * s.h ≤ i → t.grayAt i = s.grayAt i) ∧ MonoKeptOutside s t ∧ PackedKeptOutside s t ∧
      PackedAs s.w s.h (fun x y => t.monoAt (y * s.w + x)) t.packedAt ∧
      (s.plen = s.regs.expLen.toNat → t.regs = s.regs) ∧
      (s.plen ≠ s.regs.expLen.toNat → s.regs.strict = true →
        t.regs = { s.regs with fault := .sizeMismatch, faultInfo := 0x00000020 }) ∧
      (s.plen ≠ s.regs.expLen.toNat → s.regs.strict = false →
        t.regs = { s.regs with warnSize := true })

/-- 42_pipeline_serializer.md R110 with MODE.DITHER = 1: as in threshold mode, the decisions solving the
diffusion equations on the adjusted samples, inverted if requested. -/
def Obligations.ConvertInDitherMode : Prop :=
  ∀ s : State, s.ready → s.regs.dither = true →
    ∃ t, exec .convert s = .next t ∧
      t = { s with regs := t.regs, gray := t.gray, mono := t.mono, packed := t.packed } ∧
      (∀ i, i < s.w * s.h →
        ((t.grayAt i).toNat : Int) =
          bright s.regs.bright.toNat (contrast s.regs.contrast.toNat (s.grayAt i).toNat)) ∧
      Diffused s.w s.h t.grayAt (fun i => s.regs.invert ^^ t.monoAt i) ∧
      (∀ i, s.w * s.h ≤ i → t.grayAt i = s.grayAt i) ∧ MonoKeptOutside s t ∧ PackedKeptOutside s t ∧
      PackedAs s.w s.h (fun x y => t.monoAt (y * s.w + x)) t.packedAt ∧
      (s.plen = s.regs.expLen.toNat → t.regs = s.regs) ∧
      (s.plen ≠ s.regs.expLen.toNat → s.regs.strict = true →
        t.regs = { s.regs with fault := .sizeMismatch, faultInfo := 0x00000020 }) ∧
      (s.plen ≠ s.regs.expLen.toNat → s.regs.strict = false →
        t.regs = { s.regs with warnSize := true })

/-- 42_pipeline_serializer.md R112: CONVERT leaves the same GRAY, MONO, PACKED, STATUS and FAULTINFO as the
script of single commands, but for the command word that a fault records. -/
def Obligations.ConvertEqualsTheSingleCommands : Prop :=
  ∀ s : State, s.regs.fault = .none →
    ∃ t u, Sys2Proof.core.run (convertScript s).length { s with script := convertScript s } = .next t ∧
      step { s with script := [Script.command .convert] } = .next u ∧
      t.gray = u.gray ∧ t.mono = u.mono ∧ t.packed = u.packed ∧ t.out = u.out ∧
      u.regs = { t.regs with faultInfo := u.regs.faultInfo } ∧
      (s.validDims → u.regs.fault ≠ .sizeMismatch → u.regs.faultInfo = t.regs.faultInfo) ∧
      (s.validDims → u.regs.fault = .sizeMismatch →
        u.regs.faultInfo = 0x00000020 ∧ t.regs.faultInfo = 0x00000021) ∧
      (¬ s.validDims → u.regs.fault = .badDim ∧ u.regs.faultInfo = 0x00000020 ∧
        t.regs.faultInfo = convertScriptFirst s)

/-- 41_tone_binarize.md R102, 90_conflicts.md C1: the packed picture with MODE.INVERT = 1 is the complement,
on pixel bits, of the one with MODE.INVERT = 0, in both modes; pad bits are 0 in both. -/
def Obligations.InversionComplementsThePackedPicture : Prop :=
  ∀ s : State, s.ready → s.regs.invert = false →
    ∃ t t', exec .convert s = .next t ∧
      exec .convert { s with regs := { s.regs with invert := true } } = .next t' ∧
      ∀ y, y < s.h → ∀ c, c < bpr s.w → ∀ k, k < 8 →
        (8 * c + k < s.w → (t'.packedAt (y * bpr s.w + c)).getLsbD (7 - k) =
          !(t.packedAt (y * bpr s.w + c)).getLsbD (7 - k)) ∧
        (s.w ≤ 8 * c + k → (t.packedAt (y * bpr s.w + c)).getLsbD (7 - k) = false ∧
          (t'.packedAt (y * bpr s.w + c)).getLsbD (7 - k) = false)

/-- 41_tone_binarize.md R95: a uniform mid-gray frame converts, with the default configuration, to an
all-white picture, at every size. -/
def Obligations.MidGrayConvertsToWhite : Prop :=
  ∀ s : State, s.ready → s.regs.contrast = 0x0100 → s.regs.bright = 0x0100 →
    s.regs.threshold = 128 → s.regs.dither = false → s.regs.invert = false →
    s.plen = s.regs.expLen.toNat → (∀ i, i < s.w * s.h → s.grayAt i = 128) →
    ∃ t, exec .convert s = .next t ∧ t = { s with mono := t.mono, packed := t.packed } ∧
      (∀ i, i < s.w * s.h → t.monoAt i = false) ∧ ∀ i, i < s.plen → t.packedAt i = 0

/-- 42_pipeline_serializer.md R113, R114: VERIFY compares PLEN with EXPLEN, needs no valid dimensions and
touches no memory. -/
def Obligations.VerifyComparesTheLengths : Prop :=
  decode 0x00000021 = .ok .verify ∧
  ∀ s : State, s.regs.fault = .none →
    ((s.regs.width.toNat + 7) / 8 * s.regs.height.toNat = s.regs.expLen.toNat →
      exec .verify s = .next s) ∧
    ((s.regs.width.toNat + 7) / 8 * s.regs.height.toNat ≠ s.regs.expLen.toNat →
      (s.regs.strict = true → exec .verify s = .next (faulted s .sizeMismatch 0x00000021)) ∧
      (s.regs.strict = false →
        exec .verify s = .next { s with regs := { s.regs with warnSize := true } }))

/-- 42_pipeline_serializer.md R116: STREAM appends PACKED cells 0 .. LEN - 1 to OUT in ascending order and
changes nothing else. -/
def Obligations.StreamEmitsTheFrameInOrder : Prop :=
  FrameCommand .stream 0x00000022 fun s t =>
    t = { s with out := t.out } ∧ t.out = s.out ++ (List.range s.plen).map s.packedAt

/-! ## The pattern generator -/

/-- 43_patterns.md R126, R127, R128: PAT.WHITE and PAT.BLACK. -/
def Obligations.WhiteAndBlackPatterns : Prop :=
  Pattern .patWhite 0x00000030 (fun _ _ _ _ => False) ∧ Pattern .patBlack 0x00000130 (fun _ _ _ _ => True)

/-- 43_patterns.md R126, R129, R130: PAT.CHECKER and PAT.STRIPES_H. -/
def Obligations.CheckerAndHorizontalStripes : Prop :=
  Pattern .patChecker 0x00000230 (fun _ _ x y => (x / 8 + y / 8) % 2 = 0) ∧
  Pattern .patStripesH 0x00000330 (fun _ _ _ y => y / 10 % 2 = 0)

/-- 43_patterns.md R126, R131, R135: PAT.STRIPES_V and PAT.SPLIT, decided once per byte group. -/
def Obligations.GroupPatterns : Prop :=
  Pattern .patStripesV 0x00000430 (fun _ _ x _ => (8 * (x / 8)) / 10 % 2 = 0) ∧
  Pattern .patSplit 0x00000830 (fun w _ x _ => 8 * (x / 8) < w / 2)

/-- 43_patterns.md R126, R132: PAT.GRADIENT. -/
def Obligations.GradientPattern : Prop :=
  Pattern .patGradient 0x00000530 (fun _ h x y => (17 * x + 13 * y) % 256 < 255 * y / h)

/-- 43_patterns.md R126, R133, R134: PAT.BORDER and PAT.GRID. -/
def Obligations.BorderAndGridPatterns : Prop :=
  Pattern .patBorder 0x00000630 (fun w h x y => x < 20 ∨ w ≤ x + 20 ∨ y < 20 ∨ h ≤ y + 20) ∧
  Pattern .patGrid 0x00000730 (fun _ _ x y => y % 100 < 2 ∨ x % 100 < 2)

/-- 43_patterns.md R126, R136: PAT.TEXT, with `sx = floor(W/2) - 200` and `sy = floor(H/2) - 50` moved to the
other side of each comparison, so that no number is negative. -/
def Obligations.TextPattern : Prop :=
  Pattern .patText 0x00000930 (fun w h x y =>
    h / 2 ≤ y + 50 ∧ y + 50 < h / 2 + 100 ∧ w / 2 ≤ x + 200 ∧ x + 200 < w / 2 + 400 ∧
      (x + 200 - w / 2) % 100 < 80)

/-- 43_patterns.md R127 to R131, R135, R137: the six patterns that do not change inside a byte group give
bytes 0xFF or 0x00 wherever a byte has no pad bits. -/
def Obligations.GroupPatternsGiveWholeBytes : Prop :=
  ∀ (i : Instr) (s : State),
    i ∈ [Instr.patWhite, .patBlack, .patChecker, .patStripesH, .patStripesV, .patSplit] → s.ready →
    ∃ t, exec i s = .next t ∧
      ∀ y, y < s.h → ∀ c, 8 * c + 8 ≤ s.w →
        (t.packedAt (y * bpr s.w + c) = 0xFF ∧ t.monoAt (y * s.w + 8 * c) = true) ∨
        (t.packedAt (y * bpr s.w + c) = 0x00 ∧ t.monoAt (y * s.w + 8 * c) = false)

/-! ## The whole machine -/

/-- 10_state.md R26: only a host register write and a reset (the RESET command included) change a
configuration register. -/
def Obligations.OnlyHostWritesAndResetsConfigure : Prop :=
  ∀ s t : State, step s = .next t → config t ≠ config s →
    (∃ r v rest, r ≠ 3 ∧ s.script = .wr r v :: rest) ∨ (∃ rest, s.script = .hardReset :: rest) ∨
    (∃ rest, s.script = .wr 3 0x0000007F :: rest)

/-- 10_state.md R14, R15, 60_exceptions.md R161: a fault is entered only by a CMD write, whose word
FAULTINFO then holds, and once entered it stays, with its information, until a reset. -/
def Obligations.FaultStaysUntilReset : Prop :=
  ∀ s t : State, step s = .next t →
    (s.regs.fault = .none → t.regs.fault ≠ .none →
      ∃ rest, s.script = .wr 3 t.regs.faultInfo :: rest) ∧
    (s.regs.fault ≠ .none →
      (t.regs.fault = s.regs.fault ∧ t.regs.faultInfo = s.regs.faultInfo) ∨
      (t.regs.fault = .none ∧ ((∃ rest, s.script = .hardReset :: rest) ∨
        ∃ rest, s.script = .wr 3 0x0000007F :: rest)))

/-- 10_state.md R30: OUT only grows, only STREAM makes it grow, and only a hardware reset empties it. -/
def Obligations.OnlyStreamEmits : Prop :=
  ∀ s t : State, step s = .next t →
    t.out = s.out ∨
    (s.ready ∧ (∃ rest, s.script = .wr 3 0x00000022 :: rest) ∧
      t.out = s.out ++ (List.range s.plen).map s.packedAt) ∨
    ((∃ rest, s.script = .hardReset :: rest) ∧ t.out = [])

/-- 10_state.md R31: no command changes a cell outside the active area, in any state. -/
def Obligations.CommandsKeepInactiveCells : Prop :=
  ∀ (i : Instr) (s t : State), exec i s = .next t →
    (∀ k, s.w * s.h ≤ k → t.grayAt k = s.grayAt k ∧ t.monoAt k = s.monoAt k) ∧
    (∀ k, s.plen ≤ k → t.packedAt k = s.packedAt k)

/-- State.reset meets the invariant, with OUT empty and no byte of it received. The parameters in State, the
canonical form of a memory and the count of bytes received are the model's own (log entries 1, 2, 5). -/
def Obligations.ResetMeetsTheInvariant : Prop :=
  State.reset.Inv ∧ State.reset.out = [] ∧ State.reset.taken = 0

/-- Every step keeps the invariant: parameters in range (00_scope.md R5), memories in canonical form and
inside their spaces (20_memory.md R40), the consumer not ahead of OUT. The parameters in State, the canonical
form of a memory and the count of bytes received are the model's own (log entries 1, 2, 5). -/
def Obligations.EveryStepKeepsTheInvariant : Prop :=
  ∀ s t : State, s.Inv → step s = .next t → t.Inv

/-- 10_state.md R35: State.reset has STATUS.FAULT = 0 and FAULTINFO = 0, and so meets the invariant of
EveryStepKeepsTheFaultRecord. -/
def Obligations.ResetRecordsNoFault : Prop :=
  State.reset.regs.fault = .none ∧ State.reset.regs.faultInfo = 0 ∧ State.reset.faultRecorded = true

/-- 60_exceptions.md R150: in every state a step can reach from such a state, FAULTINFO holds a word that
can have raised the fault STATUS.FAULT names, and 0 when there is none. -/
def Obligations.EveryStepKeepsTheFaultRecord : Prop :=
  ∀ s t : State, s.faultRecorded = true → step s = .next t → t.faultRecorded = true
end

