-- ==== Sys2Proof/Laws/Memory.lean ====
section
/-! SUPPORT. The laws of one memory: what a cell reads as after each operation, and that every operation
keeps the canonical form. None of the reading laws needs the canonical form. -/

namespace Sys2Proof.Machine

variable {α : Type}

/-- Dropping the entries below `i` and then those below `j` is dropping those below the larger. -/
theorem Memory.dropBelow_dropBelow {i j : Nat} (m : Memory α) (h : i ≤ j) :
    (m.dropWhile (fun c => c.1 < i)).dropWhile (fun c => c.1 < j) = m.dropWhile (fun c => c.1 < j) := by
  induction m with
  | nil => rfl
  | cons c m ih =>
    by_cases hi : c.1 < i
    · have hj : c.1 < j := by omega
      simpa [List.dropWhile_cons, hi, hj] using ih
    · simp [hi]

theorem Memory.dropBelow_append_of_all {i : Nat} {a b : Memory α} (h : ∀ c ∈ a, c.1 < i) :
    (a ++ b).dropWhile (fun c => c.1 < i) = b.dropWhile (fun c => c.1 < i) := by
  induction a with
  | nil => rfl
  | cons c a ih =>
    have hc : c.1 < i := h c (by simp)
    simpa [List.dropWhile_cons, hc] using ih fun d hd => h d (by simp [hd])

/-- A cell's stored value does not see the entries below it. -/
theorem Memory.cell?_dropBelow {i j : Nat} (m : Memory α) (h : j ≤ i) :
    Memory.cell? (m.dropWhile (fun c => c.1 < j)) i = m.cell? i := by
  unfold Memory.cell?
  rw [Memory.dropBelow_dropBelow m h]

theorem Memory.cell?_append_of_all {i : Nat} {a b : Memory α} (h : ∀ c ∈ a, c.1 < i) :
    Memory.cell? (a ++ b) i = Memory.cell? b i := by
  unfold Memory.cell?
  rw [Memory.dropBelow_append_of_all h]

@[simp] theorem Memory.cell?_nil (i : Nat) : Memory.cell? ([] : Memory α) i = none := rfl

theorem Memory.cell?_cons (i j : Nat) (v : α) (m : Memory α) :
    Memory.cell? ((j, v) :: m) i =
      if j < i then Memory.cell? m i else if j = i then some v else none := by
  unfold Memory.cell?
  by_cases h : j < i <;> simp [h]

/-! ## Write of one cell -/

/-- Below `i`, a list cut at `i` and continued with an entry of cell `i` reads as the list itself. -/
theorem Memory.cell?_takeBelow {i j : Nat} (m r : Memory α) (v : α) (h : j < i) :
    Memory.cell? (m.takeWhile (fun c => c.1 < i) ++ (i, v) :: r) j = m.cell? j := by
  have hi : ¬ i < j := by omega
  have hi' : ¬ i = j := by omega
  induction m with
  | nil => simp [Memory.cell?_cons, hi, hi']
  | cons c m ih =>
    obtain ⟨k, u⟩ := c
    by_cases hk : k < i
    · simp [hk, Memory.cell?_cons, ih]
    · have h1 : ¬ k < j := by omega
      have h2 : ¬ k = j := by omega
      simp [hk, Memory.cell?_cons, hi, hi', h1, h2]

theorem Memory.mem_takeBelow {i : Nat} {m : Memory α} {c : Nat × α}
    (h : c ∈ m.takeWhile (fun c => c.1 < i)) : c.1 < i := by
  simpa using List.mem_takeWhile_imp h

theorem Memory.dropThrough_eq (m : Memory α) (i : Nat) :
    m.dropWhile (fun c => c.1 ≤ i) = m.dropWhile (fun c => c.1 < i + 1) := by
  simp only [Nat.lt_succ_iff]

/-- Read after write: the written cell stores the value, every other cell stores what it did. -/
theorem Memory.cell?_write (m : Memory α) (i : Nat) (v : α) (j : Nat) :
    (m.write i v).cell? j = if j = i then some v else m.cell? j := by
  unfold Memory.write
  rcases Nat.lt_trichotomy j i with h | h | h
  · rw [Memory.cell?_takeBelow m _ v h, if_neg (by omega)]
  · subst h
    rw [Memory.cell?_append_of_all fun c hc => Memory.mem_takeBelow hc]
    simp [Memory.cell?_cons]
  · rw [Memory.cell?_append_of_all fun c hc => Nat.lt_trans (Memory.mem_takeBelow hc) h,
      Memory.cell?_cons, if_pos h, Memory.dropThrough_eq, Memory.cell?_dropBelow m (by omega),
      if_neg (by omega)]

@[simp] theorem Memory.read_write (free : Nat → α) (m : Memory α) (i : Nat) (v : α) (j : Nat) :
    (m.write i v).read free j = if j = i then v else m.read free j := by
  unfold Memory.read
  rw [Memory.cell?_write]
  split <;> simp

/-! ## Overwriting the first cells -/

theorem Memory.cell?_zip_range' (vs : List α) (r : Memory α) (k j : Nat) (hj : j < vs.length) :
    Memory.cell? ((List.range' k vs.length).zip vs ++ r) (k + j) = some vs[j] := by
  induction vs generalizing k j with
  | nil => simp at hj
  | cons v vs ih =>
    simp only [List.length_cons, List.range'_succ, List.zip_cons_cons, List.cons_append]
    rw [Memory.cell?_cons]
    cases j with
    | zero => simp
    | succ j =>
      have := ih (k + 1) j (by simpa using hj)
      rw [show k + 1 + j = k + (j + 1) by omega] at this
      simp [this]

theorem Memory.mem_enumerated {vs : List α} {c : Nat × α} (h : c ∈ (List.range vs.length).zip vs) :
    c.1 < vs.length := by
  obtain ⟨i, v⟩ := c
  simpa using (List.of_mem_zip h).1

/-- Read after an overwrite: the first cells store the list's values, every other cell what it did. -/
theorem Memory.cell?_overwrite (m : Memory α) (vs : List α) (j : Nat) :
    (m.overwrite vs).cell? j = if h : j < vs.length then some vs[j] else m.cell? j := by
  unfold Memory.overwrite
  split
  · rename_i h
    have := Memory.cell?_zip_range' vs (m.dropWhile fun c => c.1 < vs.length) 0 j h
    simpa [List.range_eq_range'] using this
  · rename_i h
    rw [Memory.cell?_append_of_all fun c hc => by have := Memory.mem_enumerated hc; omega,
      Memory.cell?_dropBelow m (by omega)]

theorem Memory.read_overwrite (free : Nat → α) (m : Memory α) (vs : List α) (j : Nat) :
    (m.overwrite vs).read free j = if h : j < vs.length then vs[j] else m.read free j := by
  unfold Memory.read
  rw [Memory.cell?_overwrite]
  split <;> simp

theorem Memory.read_overwrite_of_lt (free : Nat → α) (m : Memory α) (vs : List α) {j : Nat}
    (h : j < vs.length) : (m.overwrite vs).read free j = vs[j] := by
  rw [Memory.read_overwrite, dif_pos h]

theorem Memory.read_overwrite_of_le (free : Nat → α) (m : Memory α) (vs : List α) {j : Nat}
    (h : vs.length ≤ j) : (m.overwrite vs).read free j = m.read free j := by
  rw [Memory.read_overwrite, dif_neg (by omega)]

/-- Writing the cells one by one in ascending order reads the same as the overwrite: the order in which a
frame command writes its active cells is not visible (20_memory.md R55). -/
theorem Memory.read_foldl_write (free : Nat → α) (f : Nat → α) (m : Memory α) (n j : Nat) :
    ((List.range n).foldl (fun m i => m.write i (f i)) m).read free j =
      (m.overwrite ((List.range n).map f)).read free j := by
  induction n with
  | zero => simp [Memory.read_overwrite]
  | succ n ih =>
    rw [List.range_succ, List.foldl_append]
    simp only [List.foldl_cons, List.foldl_nil, Memory.read_write, ih, Memory.read_overwrite]
    by_cases h : j = n
    · subst h; simp
    · by_cases hj : j < n
      · simp [h, hj, Nat.lt_succ_of_lt hj, List.getElem_append_left]
      · have : ¬ j < n + 1 := by omega
        simp [h, hj, this]

/-! ## The first cells as a list -/

theorem Memory.read_dropBelow (free : Nat → α) {i j : Nat} (m : Memory α) (h : j ≤ i) :
    Memory.read free (m.dropWhile (fun c => c.1 < j)) i = m.read free i := by
  unfold Memory.read
  rw [Memory.cell?_dropBelow m h]

/-- The one-pass slice is the list of what the cells read as. -/
theorem Memory.slice_eq_map_read (free : Nat → α) (n : Nat) (m : Memory α) :
    Memory.slice free n m = (List.range n).map (m.read free) := by
  suffices h : ∀ k, ∃ r : Memory α,
      (List.range k).foldl
        (fun (a : Array α × Memory α) i =>
          (a.1.push (Memory.read free a.2 i), a.2.dropWhile (fun c => c.1 < i))) (#[], m) =
        (((List.range k).map (m.read free)).toArray, r) ∧
      ∀ i, k ≤ i → Memory.read free r i = m.read free i by
    obtain ⟨r, h, -⟩ := h n
    simp [Memory.slice, h]
  intro k
  induction k with
  | zero => exact ⟨m, rfl, fun _ _ => rfl⟩
  | succ k ih =>
    obtain ⟨r, h, hr⟩ := ih
    refine ⟨r.dropWhile (fun c => c.1 < k), ?_, fun i hi => ?_⟩
    · rw [List.range_succ, List.foldl_append, h]
      simp [hr k (Nat.le_refl k)]
    · rw [Memory.read_dropBelow free r (by omega), hr i (by omega)]

@[simp] theorem Memory.length_slice (free : Nat → α) (n : Nat) (m : Memory α) :
    (Memory.slice free n m).length = n := by
  simp [Memory.slice_eq_map_read]

@[simp] theorem Memory.getElem_slice (free : Nat → α) (n : Nat) (m : Memory α) (i : Nat)
    (h : i < (Memory.slice free n m).length) : (Memory.slice free n m)[i] = m.read free i := by
  simp [Memory.slice_eq_map_read]

/-! ## The canonical form -/

theorem Memory.wf_nil (bound : Nat) : Memory.wf bound ([] : Memory α) := by
  simp [Memory.wf]

theorem Memory.above_of_mem_dropThrough {m : Memory α} (hs : m.Pairwise (fun a b => a.1 < b.1))
    {i : Nat} {c : Nat × α} (h : c ∈ m.dropWhile (fun c => c.1 < i)) : i ≤ c.1 := by
  induction m with
  | nil => simp at h
  | cons d m ih =>
    rw [List.pairwise_cons] at hs
    by_cases hd : d.1 < i
    · rw [List.dropWhile_cons, if_pos (by simpa using hd)] at h
      exact ih hs.2 h
    · rw [List.dropWhile_cons, if_neg (by simpa using hd)] at h
      rcases List.mem_cons.mp h with rfl | h
      · omega
      · have := hs.1 c h; omega

theorem Memory.wf_write {bound : Nat} {m : Memory α} (h : m.wf bound) {i : Nat} (hi : i < bound)
    (v : α) : (m.write i v).wf bound := by
  obtain ⟨hs, hb⟩ := h
  have habove : ∀ c ∈ m.dropWhile (fun c => c.1 ≤ i), i < c.1 := fun c hc => by
    rw [Memory.dropThrough_eq] at hc
    exact Memory.above_of_mem_dropThrough hs hc
  refine ⟨?_, fun c hc => ?_⟩
  · unfold Memory.write
    rw [List.pairwise_append]
    refine ⟨hs.sublist (List.takeWhile_sublist _), ?_, fun a ha b hb => ?_⟩
    · exact List.pairwise_cons.mpr ⟨habove, hs.sublist (List.dropWhile_sublist _)⟩
    · have ha := Memory.mem_takeBelow ha
      rcases List.mem_cons.mp hb with rfl | hb
      · exact ha
      · have := habove b hb; omega
  · unfold Memory.write at hc
    rcases List.mem_append.mp hc with hc | hc
    · exact hb c ((List.takeWhile_sublist _).subset hc)
    · rcases List.mem_cons.mp hc with rfl | hc
      · exact hi
      · exact hb c ((List.dropWhile_sublist _).subset hc)

theorem Memory.wf_overwrite {bound : Nat} {m : Memory α} (h : m.wf bound) {vs : List α}
    (hv : vs.length ≤ bound) : (m.overwrite vs).wf bound := by
  obtain ⟨hs, hb⟩ := h
  refine ⟨?_, fun c hc => ?_⟩
  · unfold Memory.overwrite
    rw [List.pairwise_append]
    refine ⟨?_, hs.sublist (List.dropWhile_sublist _), fun a ha b hb => ?_⟩
    · have : (((List.range vs.length).zip vs).map Prod.fst).Pairwise (· < ·) := by
        rw [List.map_fst_zip (by simp)]
        exact List.pairwise_lt_range
      simpa [List.pairwise_map] using this
    · have := Memory.mem_enumerated ha
      have := Memory.above_of_mem_dropThrough hs hb
      omega
  · unfold Memory.overwrite at hc
    rcases List.mem_append.mp hc with hc | hc
    · have := Memory.mem_enumerated hc; omega
    · exact hb c ((List.dropWhile_sublist _).subset hc)

end Sys2Proof.Machine
end

