-- ==== Sys2Proof/Laws/State.lean ====
section
/-! SUPPORT. One lemma per field and update of State, true by unfolding: later proofs never open a record
update. -/

namespace Sys2Proof.Machine

/-! ## Updates of one memory or of OUT -/

@[simp] theorem State.writeGray_regs (s : State) (i : Nat) (v : Byte) : (s.writeGray i v).regs = s.regs := rfl
@[simp] theorem State.writeGray_gray (s : State) (i : Nat) (v : Byte) : (s.writeGray i v).gray = s.gray.write i v := rfl
@[simp] theorem State.writeGray_mono (s : State) (i : Nat) (v : Byte) : (s.writeGray i v).mono = s.mono := rfl
@[simp] theorem State.writeGray_packed (s : State) (i : Nat) (v : Byte) : (s.writeGray i v).packed = s.packed := rfl
@[simp] theorem State.writeGray_out (s : State) (i : Nat) (v : Byte) : (s.writeGray i v).out = s.out := rfl
@[simp] theorem State.writeGray_params (s : State) (i : Nat) (v : Byte) : (s.writeGray i v).params = s.params := rfl
@[simp] theorem State.writeGray_resets (s : State) (i : Nat) (v : Byte) : (s.writeGray i v).resets = s.resets := rfl
@[simp] theorem State.writeGray_script (s : State) (i : Nat) (v : Byte) : (s.writeGray i v).script = s.script := rfl
@[simp] theorem State.writeGray_answers (s : State) (i : Nat) (v : Byte) : (s.writeGray i v).answers = s.answers := rfl
@[simp] theorem State.writeGray_taken (s : State) (i : Nat) (v : Byte) : (s.writeGray i v).taken = s.taken := rfl

@[simp] theorem State.writeMono_regs (s : State) (i : Nat) (v : Bool) : (s.writeMono i v).regs = s.regs := rfl
@[simp] theorem State.writeMono_gray (s : State) (i : Nat) (v : Bool) : (s.writeMono i v).gray = s.gray := rfl
@[simp] theorem State.writeMono_mono (s : State) (i : Nat) (v : Bool) : (s.writeMono i v).mono = s.mono.write i v := rfl
@[simp] theorem State.writeMono_packed (s : State) (i : Nat) (v : Bool) : (s.writeMono i v).packed = s.packed := rfl
@[simp] theorem State.writeMono_out (s : State) (i : Nat) (v : Bool) : (s.writeMono i v).out = s.out := rfl
@[simp] theorem State.writeMono_params (s : State) (i : Nat) (v : Bool) : (s.writeMono i v).params = s.params := rfl
@[simp] theorem State.writeMono_resets (s : State) (i : Nat) (v : Bool) : (s.writeMono i v).resets = s.resets := rfl
@[simp] theorem State.writeMono_script (s : State) (i : Nat) (v : Bool) : (s.writeMono i v).script = s.script := rfl
@[simp] theorem State.writeMono_answers (s : State) (i : Nat) (v : Bool) : (s.writeMono i v).answers = s.answers := rfl
@[simp] theorem State.writeMono_taken (s : State) (i : Nat) (v : Bool) : (s.writeMono i v).taken = s.taken := rfl

@[simp] theorem State.writePacked_regs (s : State) (i : Nat) (v : Byte) : (s.writePacked i v).regs = s.regs := rfl
@[simp] theorem State.writePacked_gray (s : State) (i : Nat) (v : Byte) : (s.writePacked i v).gray = s.gray := rfl
@[simp] theorem State.writePacked_mono (s : State) (i : Nat) (v : Byte) : (s.writePacked i v).mono = s.mono := rfl
@[simp] theorem State.writePacked_packed (s : State) (i : Nat) (v : Byte) : (s.writePacked i v).packed = s.packed.write i v := rfl
@[simp] theorem State.writePacked_out (s : State) (i : Nat) (v : Byte) : (s.writePacked i v).out = s.out := rfl
@[simp] theorem State.writePacked_params (s : State) (i : Nat) (v : Byte) : (s.writePacked i v).params = s.params := rfl
@[simp] theorem State.writePacked_resets (s : State) (i : Nat) (v : Byte) : (s.writePacked i v).resets = s.resets := rfl
@[simp] theorem State.writePacked_script (s : State) (i : Nat) (v : Byte) : (s.writePacked i v).script = s.script := rfl
@[simp] theorem State.writePacked_answers (s : State) (i : Nat) (v : Byte) : (s.writePacked i v).answers = s.answers := rfl
@[simp] theorem State.writePacked_taken (s : State) (i : Nat) (v : Byte) : (s.writePacked i v).taken = s.taken := rfl

@[simp] theorem State.putGray_regs (s : State) (vs : List Byte) : (s.putGray vs).regs = s.regs := rfl
@[simp] theorem State.putGray_gray (s : State) (vs : List Byte) : (s.putGray vs).gray = s.gray.overwrite vs := rfl
@[simp] theorem State.putGray_mono (s : State) (vs : List Byte) : (s.putGray vs).mono = s.mono := rfl
@[simp] theorem State.putGray_packed (s : State) (vs : List Byte) : (s.putGray vs).packed = s.packed := rfl
@[simp] theorem State.putGray_out (s : State) (vs : List Byte) : (s.putGray vs).out = s.out := rfl
@[simp] theorem State.putGray_params (s : State) (vs : List Byte) : (s.putGray vs).params = s.params := rfl
@[simp] theorem State.putGray_resets (s : State) (vs : List Byte) : (s.putGray vs).resets = s.resets := rfl
@[simp] theorem State.putGray_script (s : State) (vs : List Byte) : (s.putGray vs).script = s.script := rfl
@[simp] theorem State.putGray_answers (s : State) (vs : List Byte) : (s.putGray vs).answers = s.answers := rfl
@[simp] theorem State.putGray_taken (s : State) (vs : List Byte) : (s.putGray vs).taken = s.taken := rfl

@[simp] theorem State.putMono_regs (s : State) (vs : List Bool) : (s.putMono vs).regs = s.regs := rfl
@[simp] theorem State.putMono_gray (s : State) (vs : List Bool) : (s.putMono vs).gray = s.gray := rfl
@[simp] theorem State.putMono_mono (s : State) (vs : List Bool) : (s.putMono vs).mono = s.mono.overwrite vs := rfl
@[simp] theorem State.putMono_packed (s : State) (vs : List Bool) : (s.putMono vs).packed = s.packed := rfl
@[simp] theorem State.putMono_out (s : State) (vs : List Bool) : (s.putMono vs).out = s.out := rfl
@[simp] theorem State.putMono_params (s : State) (vs : List Bool) : (s.putMono vs).params = s.params := rfl
@[simp] theorem State.putMono_resets (s : State) (vs : List Bool) : (s.putMono vs).resets = s.resets := rfl
@[simp] theorem State.putMono_script (s : State) (vs : List Bool) : (s.putMono vs).script = s.script := rfl
@[simp] theorem State.putMono_answers (s : State) (vs : List Bool) : (s.putMono vs).answers = s.answers := rfl
@[simp] theorem State.putMono_taken (s : State) (vs : List Bool) : (s.putMono vs).taken = s.taken := rfl

@[simp] theorem State.putPacked_regs (s : State) (vs : List Byte) : (s.putPacked vs).regs = s.regs := rfl
@[simp] theorem State.putPacked_gray (s : State) (vs : List Byte) : (s.putPacked vs).gray = s.gray := rfl
@[simp] theorem State.putPacked_mono (s : State) (vs : List Byte) : (s.putPacked vs).mono = s.mono := rfl
@[simp] theorem State.putPacked_packed (s : State) (vs : List Byte) : (s.putPacked vs).packed = s.packed.overwrite vs := rfl
@[simp] theorem State.putPacked_out (s : State) (vs : List Byte) : (s.putPacked vs).out = s.out := rfl
@[simp] theorem State.putPacked_params (s : State) (vs : List Byte) : (s.putPacked vs).params = s.params := rfl
@[simp] theorem State.putPacked_resets (s : State) (vs : List Byte) : (s.putPacked vs).resets = s.resets := rfl
@[simp] theorem State.putPacked_script (s : State) (vs : List Byte) : (s.putPacked vs).script = s.script := rfl
@[simp] theorem State.putPacked_answers (s : State) (vs : List Byte) : (s.putPacked vs).answers = s.answers := rfl
@[simp] theorem State.putPacked_taken (s : State) (vs : List Byte) : (s.putPacked vs).taken = s.taken := rfl

@[simp] theorem State.emit_regs (s : State) (bs : List Byte) : (s.emit bs).regs = s.regs := rfl
@[simp] theorem State.emit_gray (s : State) (bs : List Byte) : (s.emit bs).gray = s.gray := rfl
@[simp] theorem State.emit_mono (s : State) (bs : List Byte) : (s.emit bs).mono = s.mono := rfl
@[simp] theorem State.emit_packed (s : State) (bs : List Byte) : (s.emit bs).packed = s.packed := rfl
@[simp] theorem State.emit_out (s : State) (bs : List Byte) : (s.emit bs).out = s.out ++ bs := rfl
@[simp] theorem State.emit_params (s : State) (bs : List Byte) : (s.emit bs).params = s.params := rfl
@[simp] theorem State.emit_resets (s : State) (bs : List Byte) : (s.emit bs).resets = s.resets := rfl
@[simp] theorem State.emit_script (s : State) (bs : List Byte) : (s.emit bs).script = s.script := rfl
@[simp] theorem State.emit_answers (s : State) (bs : List Byte) : (s.emit bs).answers = s.answers := rfl
@[simp] theorem State.emit_taken (s : State) (bs : List Byte) : (s.emit bs).taken = s.taken := rfl

/-! ## Fault entry, the warning, recovery, reset -/

@[simp] theorem State.raiseFault_regs (s : State) (c : FaultCode) (w : Word) : (s.raiseFault c w).regs = { s.regs with fault := c, faultInfo := w } := rfl
@[simp] theorem State.raiseFault_gray (s : State) (c : FaultCode) (w : Word) : (s.raiseFault c w).gray = s.gray := rfl
@[simp] theorem State.raiseFault_mono (s : State) (c : FaultCode) (w : Word) : (s.raiseFault c w).mono = s.mono := rfl
@[simp] theorem State.raiseFault_packed (s : State) (c : FaultCode) (w : Word) : (s.raiseFault c w).packed = s.packed := rfl
@[simp] theorem State.raiseFault_out (s : State) (c : FaultCode) (w : Word) : (s.raiseFault c w).out = s.out := rfl
@[simp] theorem State.raiseFault_params (s : State) (c : FaultCode) (w : Word) : (s.raiseFault c w).params = s.params := rfl
@[simp] theorem State.raiseFault_resets (s : State) (c : FaultCode) (w : Word) : (s.raiseFault c w).resets = s.resets := rfl
@[simp] theorem State.raiseFault_script (s : State) (c : FaultCode) (w : Word) : (s.raiseFault c w).script = s.script := rfl
@[simp] theorem State.raiseFault_answers (s : State) (c : FaultCode) (w : Word) : (s.raiseFault c w).answers = s.answers := rfl
@[simp] theorem State.raiseFault_taken (s : State) (c : FaultCode) (w : Word) : (s.raiseFault c w).taken = s.taken := rfl

@[simp] theorem State.warnSizeMismatch_regs (s : State) : (s.warnSizeMismatch).regs = { s.regs with warnSize := true } := rfl
@[simp] theorem State.warnSizeMismatch_gray (s : State) : (s.warnSizeMismatch).gray = s.gray := rfl
@[simp] theorem State.warnSizeMismatch_mono (s : State) : (s.warnSizeMismatch).mono = s.mono := rfl
@[simp] theorem State.warnSizeMismatch_packed (s : State) : (s.warnSizeMismatch).packed = s.packed := rfl
@[simp] theorem State.warnSizeMismatch_out (s : State) : (s.warnSizeMismatch).out = s.out := rfl
@[simp] theorem State.warnSizeMismatch_params (s : State) : (s.warnSizeMismatch).params = s.params := rfl
@[simp] theorem State.warnSizeMismatch_resets (s : State) : (s.warnSizeMismatch).resets = s.resets := rfl
@[simp] theorem State.warnSizeMismatch_script (s : State) : (s.warnSizeMismatch).script = s.script := rfl
@[simp] theorem State.warnSizeMismatch_answers (s : State) : (s.warnSizeMismatch).answers = s.answers := rfl
@[simp] theorem State.warnSizeMismatch_taken (s : State) : (s.warnSizeMismatch).taken = s.taken := rfl

@[simp] theorem State.recover_regs (s : State) : (s.recover).regs = Regs.reset s.params := rfl
@[simp] theorem State.recover_gray (s : State) : (s.recover).gray = s.gray := rfl
@[simp] theorem State.recover_mono (s : State) : (s.recover).mono = s.mono := rfl
@[simp] theorem State.recover_packed (s : State) : (s.recover).packed = s.packed := rfl
@[simp] theorem State.recover_out (s : State) : (s.recover).out = s.out := rfl
@[simp] theorem State.recover_params (s : State) : (s.recover).params = s.params := rfl
@[simp] theorem State.recover_resets (s : State) : (s.recover).resets = s.resets := rfl
@[simp] theorem State.recover_script (s : State) : (s.recover).script = s.script := rfl
@[simp] theorem State.recover_answers (s : State) : (s.recover).answers = s.answers := rfl
@[simp] theorem State.recover_taken (s : State) : (s.recover).taken = s.taken := rfl

@[simp] theorem State.hardReset_regs (s : State) : (s.hardReset).regs = Regs.reset s.params := rfl
@[simp] theorem State.hardReset_gray (s : State) : (s.hardReset).gray = [] := rfl
@[simp] theorem State.hardReset_mono (s : State) : (s.hardReset).mono = [] := rfl
@[simp] theorem State.hardReset_packed (s : State) : (s.hardReset).packed = [] := rfl
@[simp] theorem State.hardReset_out (s : State) : (s.hardReset).out = [] := rfl
@[simp] theorem State.hardReset_params (s : State) : (s.hardReset).params = s.params := rfl
@[simp] theorem State.hardReset_resets (s : State) : (s.hardReset).resets = s.resets + 1 := rfl
@[simp] theorem State.hardReset_script (s : State) : (s.hardReset).script = s.script := rfl
@[simp] theorem State.hardReset_answers (s : State) : (s.hardReset).answers = s.answers := rfl
@[simp] theorem State.hardReset_taken (s : State) : (s.hardReset).taken = 0 := rfl

/-! ## The host's own record -/

@[simp] theorem State.answer_regs (s : State) (a : Answer) : (s.answer a).regs = s.regs := rfl
@[simp] theorem State.answer_gray (s : State) (a : Answer) : (s.answer a).gray = s.gray := rfl
@[simp] theorem State.answer_mono (s : State) (a : Answer) : (s.answer a).mono = s.mono := rfl
@[simp] theorem State.answer_packed (s : State) (a : Answer) : (s.answer a).packed = s.packed := rfl
@[simp] theorem State.answer_out (s : State) (a : Answer) : (s.answer a).out = s.out := rfl
@[simp] theorem State.answer_params (s : State) (a : Answer) : (s.answer a).params = s.params := rfl
@[simp] theorem State.answer_resets (s : State) (a : Answer) : (s.answer a).resets = s.resets := rfl
@[simp] theorem State.answer_script (s : State) (a : Answer) : (s.answer a).script = s.script := rfl
@[simp] theorem State.answer_answers (s : State) (a : Answer) : (s.answer a).answers = s.answers ++ [a] := rfl
@[simp] theorem State.answer_taken (s : State) (a : Answer) : (s.answer a).taken = s.taken := rfl

@[simp] theorem State.nextMove_regs (s : State) : (s.nextMove).regs = s.regs := rfl
@[simp] theorem State.nextMove_gray (s : State) : (s.nextMove).gray = s.gray := rfl
@[simp] theorem State.nextMove_mono (s : State) : (s.nextMove).mono = s.mono := rfl
@[simp] theorem State.nextMove_packed (s : State) : (s.nextMove).packed = s.packed := rfl
@[simp] theorem State.nextMove_out (s : State) : (s.nextMove).out = s.out := rfl
@[simp] theorem State.nextMove_params (s : State) : (s.nextMove).params = s.params := rfl
@[simp] theorem State.nextMove_resets (s : State) : (s.nextMove).resets = s.resets := rfl
@[simp] theorem State.nextMove_script (s : State) : (s.nextMove).script = s.script.tail := rfl
@[simp] theorem State.nextMove_answers (s : State) : (s.nextMove).answers = s.answers := rfl
@[simp] theorem State.nextMove_taken (s : State) : (s.nextMove).taken = s.taken := rfl

/-! ## Operands depend on the registers alone -/

@[simp] theorem State.w_raiseFault (s : State) (c : FaultCode) (v : Word) : (s.raiseFault c v).w = s.w := rfl
@[simp] theorem State.h_raiseFault (s : State) (c : FaultCode) (v : Word) : (s.raiseFault c v).h = s.h := rfl

theorem State.w_congr {s t : State} (h : t.regs = s.regs) : t.w = s.w := by unfold State.w; rw [h]
theorem State.h_congr {s t : State} (h : t.regs = s.regs) : t.h = s.h := by unfold State.h; rw [h]
theorem State.plen_congr {s t : State} (h : t.regs = s.regs) : t.plen = s.plen := by
  unfold State.plen; rw [State.w_congr h, State.h_congr h]

@[simp] theorem State.w_putGray (s : State) (vs : List Byte) : (s.putGray vs).w = s.w := rfl
@[simp] theorem State.h_putGray (s : State) (vs : List Byte) : (s.putGray vs).h = s.h := rfl
@[simp] theorem State.plen_putGray (s : State) (vs : List Byte) : (s.putGray vs).plen = s.plen := rfl
@[simp] theorem State.w_putMono (s : State) (vs : List Bool) : (s.putMono vs).w = s.w := rfl
@[simp] theorem State.h_putMono (s : State) (vs : List Bool) : (s.putMono vs).h = s.h := rfl
@[simp] theorem State.plen_putMono (s : State) (vs : List Bool) : (s.putMono vs).plen = s.plen := rfl
@[simp] theorem State.w_putPacked (s : State) (vs : List Byte) : (s.putPacked vs).w = s.w := rfl
@[simp] theorem State.h_putPacked (s : State) (vs : List Byte) : (s.putPacked vs).h = s.h := rfl
@[simp] theorem State.plen_putPacked (s : State) (vs : List Byte) : (s.putPacked vs).plen = s.plen := rfl

end Sys2Proof.Machine
end

