-- ==== Sys2Proof/Laws/Ops.lean ====
section
/-! SUPPORT. One lemma per shared operation that says once everything it can do. -/

namespace Sys2Proof.Machine

/-! ## Cells -/

theorem State.grayAt_writeGray (s : State) (i : Nat) (v : Byte) (j : Nat) :
    (s.writeGray i v).grayAt j = if j = i then v else s.grayAt j := Memory.read_write _ _ _ _ _

theorem State.monoAt_writeMono (s : State) (i : Nat) (v : Bool) (j : Nat) :
    (s.writeMono i v).monoAt j = if j = i then v else s.monoAt j := Memory.read_write _ _ _ _ _

theorem State.packedAt_writePacked (s : State) (i : Nat) (v : Byte) (j : Nat) :
    (s.writePacked i v).packedAt j = if j = i then v else s.packedAt j := Memory.read_write _ _ _ _ _

theorem State.grayAt_putGray (s : State) (vs : List Byte) (j : Nat) :
    (s.putGray vs).grayAt j = if h : j < vs.length then vs[j] else s.grayAt j :=
  Memory.read_overwrite _ _ _ _

theorem State.monoAt_putMono (s : State) (vs : List Bool) (j : Nat) :
    (s.putMono vs).monoAt j = if h : j < vs.length then vs[j] else s.monoAt j :=
  Memory.read_overwrite _ _ _ _

theorem State.packedAt_putPacked (s : State) (vs : List Byte) (j : Nat) :
    (s.putPacked vs).packedAt j = if h : j < vs.length then vs[j] else s.packedAt j :=
  Memory.read_overwrite _ _ _ _

/-- What a cell reads as depends on that memory and on the reset count alone. -/
theorem State.grayAt_congr {s t : State} (hm : t.gray = s.gray) (hr : t.resets = s.resets) (i : Nat) :
    t.grayAt i = s.grayAt i := by unfold State.grayAt; rw [hm, hr]

theorem State.monoAt_congr {s t : State} (hm : t.mono = s.mono) (hr : t.resets = s.resets) (i : Nat) :
    t.monoAt i = s.monoAt i := by unfold State.monoAt; rw [hm, hr]

theorem State.packedAt_congr {s t : State} (hm : t.packed = s.packed) (hr : t.resets = s.resets)
    (i : Nat) : t.packedAt i = s.packedAt i := by unfold State.packedAt; rw [hm, hr]

/-! ## Dimensions -/

theorem State.badDims_eq_false_iff (s : State) : s.badDims = false ↔ s.validDims := by
  simp only [State.badDims, State.validDims, Bool.or_eq_false_iff, decide_eq_false_iff_not]
  omega

theorem State.badDims_eq_true_iff (s : State) : s.badDims = true ↔ ¬ s.validDims := by
  rw [← State.badDims_eq_false_iff]; simp

theorem bpr_mono {w w' : Nat} (h : w ≤ w') : bpr w ≤ bpr w' := by unfold bpr; omega

theorem bpr_pos {w : Nat} (h : 1 ≤ w) : 1 ≤ bpr w := by unfold bpr; omega

/-- The active frame fits its memories (10_state.md R29, R31). -/
theorem State.active_le_npix {s : State} (h : s.validDims) : s.w * s.h ≤ s.params.npix :=
  Nat.mul_le_mul h.2.1 h.2.2.2

theorem State.plen_le_npack {s : State} (h : s.validDims) : s.plen ≤ s.params.npack :=
  Nat.mul_le_mul (bpr_mono h.2.1) h.2.2.2

/-! ## The guards of a command -/

theorem unlessFaulted_of_none {s : State} (h : s.regs.fault = .none) (body : State → State) :
    unlessFaulted body s = body s := if_pos h

theorem unlessFaulted_of_fault {s : State} (h : s.regs.fault ≠ .none) (body : State → State) :
    unlessFaulted body s = s := if_neg h

theorem frameCommand_of_ready {s : State} (h : s.ready) (cmd : Word) (body : State → State) :
    frameCommand cmd body s = body s := by
  unfold frameCommand
  rw [unlessFaulted_of_none h.1, (State.badDims_eq_false_iff s).mpr h.2]
  rfl

theorem frameCommand_of_invalid {s : State} (hf : s.regs.fault = .none) (hd : ¬ s.validDims)
    (cmd : Word) (body : State → State) : frameCommand cmd body s = s.raiseFault .badDim cmd := by
  unfold frameCommand
  rw [unlessFaulted_of_none hf, (State.badDims_eq_true_iff s).mpr hd]
  rfl

theorem frameCommand_of_fault {s : State} (h : s.regs.fault ≠ .none) (cmd : Word)
    (body : State → State) : frameCommand cmd body s = s := unlessFaulted_of_fault h _

/-- Everything a frame command can do (60_exceptions.md R158). -/
theorem frameCommand_cases (cmd : Word) (body : State → State) (s : State) :
    (s.regs.fault ≠ .none ∧ frameCommand cmd body s = s) ∨
    (s.regs.fault = .none ∧ ¬ s.validDims ∧ frameCommand cmd body s = s.raiseFault .badDim cmd) ∨
    (s.ready ∧ frameCommand cmd body s = body s) := by
  by_cases hf : s.regs.fault = .none
  · by_cases hd : s.validDims
    · exact .inr (.inr ⟨⟨hf, hd⟩, frameCommand_of_ready ⟨hf, hd⟩ cmd body⟩)
    · exact .inr (.inl ⟨hf, hd, frameCommand_of_invalid hf hd cmd body⟩)
  · exact .inl ⟨hf, frameCommand_of_fault hf cmd body⟩

/-- Everything the length check can do (42_pipeline_serializer.md R114). -/
theorem sizeCheck_cases (kind : CheckKind) (cmd : Word) (s : State) :
    (s.plen = s.regs.expLen.toNat ∧ s.sizeCheck kind cmd = s) ∨
    (s.plen ≠ s.regs.expLen.toNat ∧ (kind = .pattern ∨ s.regs.strict = true) ∧
      s.sizeCheck kind cmd = s.raiseFault .sizeMismatch cmd) ∨
    (s.plen ≠ s.regs.expLen.toNat ∧ kind = .converter ∧ s.regs.strict = false ∧
      s.sizeCheck kind cmd = s.warnSizeMismatch) := by
  unfold State.sizeCheck
  by_cases h : s.plen = s.regs.expLen.toNat
  · exact .inl ⟨h, if_pos h⟩
  · cases kind with
    | pattern => exact .inr (.inl ⟨h, .inl rfl, if_neg h⟩)
    | converter =>
      cases hs : s.regs.strict with
      | true => exact .inr (.inl ⟨h, .inr rfl, by simp [h]⟩)
      | false => exact .inr (.inr ⟨h, rfl, rfl, by simp [h]⟩)

/-- The length check touches registers only. -/
theorem sizeCheck_eq_regs (kind : CheckKind) (cmd : Word) (s : State) :
    s.sizeCheck kind cmd = { s with regs := (s.sizeCheck kind cmd).regs } := by
  rcases sizeCheck_cases kind cmd s with ⟨-, h⟩ | ⟨-, -, h⟩ | ⟨-, -, -, h⟩ <;> rw [h] <;> rfl

end Sys2Proof.Machine
end

