-- ==== Sys2Proof/Laws/Frame.lean ====
section
/-! SUPPORT. The active frames, the packed layout, and what each body leaves in the memories. -/

namespace Sys2Proof.Machine

/-! ## Frames as lists -/

@[simp] theorem State.length_grayFrame (s : State) : s.grayFrame.length = s.w * s.h :=
  Memory.length_slice _ _ _

@[simp] theorem State.length_monoFrame (s : State) : s.monoFrame.length = s.w * s.h :=
  Memory.length_slice _ _ _

@[simp] theorem State.length_packedFrame (s : State) : s.packedFrame.length = s.plen :=
  Memory.length_slice _ _ _

@[simp] theorem State.getElem_grayFrame (s : State) (i : Nat) (h : i < s.grayFrame.length) :
    s.grayFrame[i] = s.grayAt i := Memory.getElem_slice _ _ _ _ _

@[simp] theorem State.getElem_monoFrame (s : State) (i : Nat) (h : i < s.monoFrame.length) :
    s.monoFrame[i] = s.monoAt i := Memory.getElem_slice _ _ _ _ _

@[simp] theorem State.getElem_packedFrame (s : State) (i : Nat) (h : i < s.packedFrame.length) :
    s.packedFrame[i] = s.packedAt i := Memory.getElem_slice _ _ _ _ _

theorem State.grayFrame_eq (s : State) : s.grayFrame = (List.range (s.w * s.h)).map s.grayAt :=
  Memory.slice_eq_map_read _ _ _

theorem State.monoFrame_eq (s : State) : s.monoFrame = (List.range (s.w * s.h)).map s.monoAt :=
  Memory.slice_eq_map_read _ _ _

theorem State.packedFrame_eq (s : State) : s.packedFrame = (List.range s.plen).map s.packedAt :=
  Memory.slice_eq_map_read _ _ _

@[simp] theorem length_raster (w h : Nat) (p : Nat → Nat → Bool) : (raster w h p).length = w * h := by
  simp [raster]

@[simp] theorem getElem_raster (w h : Nat) (p : Nat → Nat → Bool) (i : Nat)
    (hi : i < (raster w h p).length) : (raster w h p)[i] = p (i % w) (i / w) := by
  simp [raster]

@[simp] theorem length_packedForm (p : Nat → Nat → Bool) (w h : Nat) :
    (packedForm p w h).length = packedLen w h := by simp [packedForm]

@[simp] theorem getElem_packedForm (p : Nat → Nat → Bool) (w h i : Nat)
    (hi : i < (packedForm p w h).length) :
    (packedForm p w h)[i] = packByte p w (i / bpr w) (i % bpr w) := by simp [packedForm]

/-! ## Index arithmetic -/

theorem px_lt {w h x y : Nat} (hx : x < w) (hy : y < h) : px w x y < w * h := by
  unfold px
  calc y * w + x < y * w + w := by omega
    _ = (y + 1) * w := by ring
    _ ≤ h * w := Nat.mul_le_mul_right w hy
    _ = w * h := Nat.mul_comm _ _

theorem px_mod {w x y : Nat} (hx : x < w) : px w x y % w = x := by
  unfold px
  rw [Nat.mul_comm, Nat.mul_add_mod, Nat.mod_eq_of_lt hx]

theorem px_div {w x y : Nat} (hx : x < w) : px w x y / w = y := by
  unfold px
  rw [Nat.mul_comm, Nat.mul_add_div (by omega), Nat.div_eq_of_lt hx, Nat.add_zero]

theorem px_of_index {w i : Nat} : px w (i % w) (i / w) = i := by
  unfold px; rw [Nat.mul_comm]; exact Nat.div_add_mod i w

theorem bx_lt {w h y c : Nat} (hc : c < bpr w) (hy : y < h) : bx w y c < packedLen w h :=
  px_lt (w := bpr w) hc hy

theorem bx_mod {w y c : Nat} (hc : c < bpr w) : bx w y c % bpr w = c := px_mod (w := bpr w) hc

theorem bx_div {w y c : Nat} (hc : c < bpr w) : bx w y c / bpr w = y := px_div (w := bpr w) hc

/-- The byte column of an active pixel lies inside the row. -/
theorem column_lt {w x : Nat} (hx : x < w) : x / 8 < bpr w := by unfold bpr; omega

/-! ## The packed byte -/

/-- Adding a lane's weight to a byte in which that lane is still clear sets that bit and keeps the others:
lanes do not interact (40_codec.md R85). -/
theorem getLsbD_add_lane (b : Byte) {n i : Nat} (hn : n < 8) (hb : b.getLsbD n = false) :
    (b + ((1 : Byte) <<< n)).getLsbD i = (b.getLsbD i || decide (i = n)) := by
  have weight : (1 : Byte) <<< n = BitVec.twoPow 8 n := by
    rw [BitVec.twoPow_eq]; rfl
  have clear : b &&& BitVec.twoPow 8 n = 0#8 := by
    rw [BitVec.and_twoPow, hb]; rfl
  rw [weight, BitVec.add_eq_or_of_and_eq_zero _ _ clear, BitVec.getLsbD_or, BitVec.getLsbD_twoPow]
  simp [hn, eq_comm]

/-- The byte after the first `n` lanes of the loop: lane `k` has landed in bit `7 - k`, and the lanes still to
come are clear. -/
theorem getLsbD_foldl_lanes (f : Nat → Bool) {n : Nat} (hn : n ≤ 8) {k : Nat} (hk : k < 8) :
    ((List.range n).foldl (fun b j => if f j = true then b + ((1 : Byte) <<< (7 - j)) else b)
      0).getLsbD (7 - k) = (decide (k < n) && f k) := by
  induction n generalizing k with
  | zero => simp
  | succ n ih =>
    rw [List.range_succ, List.foldl_append, List.foldl_cons, List.foldl_nil]
    have before : ∀ {k : Nat}, k < 8 → _ := fun hk => ih (by omega) hk
    have clear := before (k := n) (by omega)
    rw [decide_eq_false (Nat.lt_irrefl n), Bool.false_and] at clear
    have last : (7 - k = 7 - n) ↔ k = n := by omega
    by_cases hf : f n = true
    · rw [if_pos hf, getLsbD_add_lane _ (by omega) clear, before hk]
      by_cases h : k = n
      · subst h; simp [hf]
      · simp [last, h, show k < n + 1 ↔ k < n by omega]
    · rw [if_neg hf, before hk]
      by_cases h : k = n
      · subst h; simp [hf]
      · simp [show k < n + 1 ↔ k < n by omega]

/-- Bit `7 - k` of `PackByte` is pixel `8c + k`, or 0 for a pad bit (30_encoding.md R69). -/
theorem getLsbD_packByte (p : Nat → Nat → Bool) (w y c k : Nat) (hk : k < 8) :
    (packByte p w y c).getLsbD (7 - k) = (decide (8 * c + k < w) && p (8 * c + k) y) := by
  have := getLsbD_foldl_lanes (fun k => decide (8 * c + k < w) && p (8 * c + k) y) (Nat.le_refl 8) hk
  simpa [packByte, hk] using this

/-- Two bytes with the same eight bits are equal. -/
theorem byte_ext {a b : Byte} (h : ∀ k, k < 8 → a.getLsbD (7 - k) = b.getLsbD (7 - k)) : a = b := by
  refine BitVec.eq_of_getLsbD_eq fun i hi => ?_
  have := h (7 - i) (by omega)
  rwa [show 7 - (7 - i) = i by omega] at this

/-! ## What the bodies leave -/

theorem framePixel_monoFrame (s : State) {x y : Nat} (hx : x < s.w) (hy : y < s.h) :
    framePixel s.monoFrame.toArray s.w x y = s.monoAt (px s.w x y) := by
  have h : px s.w x y < s.w * s.h := px_lt hx hy
  simp [framePixel, Array.getD, h]

theorem State.packedAt_packBody (s : State) (i : Nat) :
    (packBody s).packedAt i =
      if i < s.plen then packByte (framePixel s.monoFrame.toArray s.w) s.w (i / bpr s.w) (i % bpr s.w)
      else s.packedAt i := by
  unfold packBody
  rw [State.packedAt_putPacked]
  by_cases h : i < s.plen
  · have : i < packedLen s.w s.h := h
    simp [h, this]
  · have : ¬ i < packedLen s.w s.h := h
    simp [h, this]

theorem packBody_eq (s : State) : packBody s = { s with packed := (packBody s).packed } := rfl

theorem State.monoAt_unpackBody (s : State) (i : Nat) :
    (unpackBody s).monoAt i =
      if i < s.w * s.h then
        bitOf (fun j => s.packedFrame.toArray.getD j 0) s.w (i % s.w) (i / s.w)
      else s.monoAt i := by
  unfold unpackBody
  rw [State.monoAt_putMono]
  by_cases h : i < s.w * s.h <;> simp [h]

theorem State.grayAt_adjcBody (s : State) (i : Nat) :
    (adjcBody s).grayAt i =
      if i < s.w * s.h then contrastSample s.regs.contrast (s.grayAt i) else s.grayAt i := by
  unfold adjcBody
  rw [State.grayAt_putGray]
  by_cases h : i < s.w * s.h <;> simp [h]

theorem State.grayAt_adjbBody (s : State) (i : Nat) :
    (adjbBody s).grayAt i =
      if i < s.w * s.h then brightSample s.regs.bright (s.grayAt i) else s.grayAt i := by
  unfold adjbBody
  rw [State.grayAt_putGray]
  by_cases h : i < s.w * s.h <;> simp [h]

theorem State.monoAt_binThrBody (s : State) (i : Nat) :
    (binThrBody s).monoAt i =
      if i < s.w * s.h then thresholdBlack s.regs.threshold (s.grayAt i) else s.monoAt i := by
  unfold binThrBody
  rw [State.monoAt_putMono]
  by_cases h : i < s.w * s.h <;> simp [h]

theorem State.monoAt_invertBody (s : State) (i : Nat) :
    (invertBody s).monoAt i = if i < s.w * s.h then !s.monoAt i else s.monoAt i := by
  unfold invertBody
  rw [State.monoAt_putMono]
  by_cases h : i < s.w * s.h <;> simp [h]

/-! ## The dither scan -/

theorem ditherScan_zero (w h : Nat) (gray : Array Byte) : ditherScan w h gray 0 = ditherStart w h := rfl

theorem ditherScan_succ (w h : Nat) (gray : Array Byte) (k : Nat) :
    ditherScan w h gray (k + 1) = ditherPixel w h gray (ditherScan w h gray k) k := by
  unfold ditherScan
  rw [List.range_succ, List.foldl_append]
  rfl

@[simp] theorem size_addShare (inside : Bool) (i : Nat) (k e : Int) (err : Array Int) :
    (addShare inside i k e err).size = err.size := by
  unfold addShare
  split <;> simp

/-- The scan keeps the size of the error store and makes one decision per pixel. -/
theorem ditherScan_sizes (w h : Nat) (gray : Array Byte) (k : Nat) :
    (ditherScan w h gray k).err.size = w * h ∧ (ditherScan w h gray k).black.size = k := by
  induction k with
  | zero => simp [ditherScan_zero, ditherStart]
  | succ k ih => rw [ditherScan_succ]; simp [ditherPixel, ih]

/-- "its result has W × H bits" (41_tone_binarize.md R97). -/
@[simp] theorem length_ditherFrame (w h : Nat) (gray : Array Byte) :
    (ditherFrame w h gray).length = w * h := by
  simp [ditherFrame, (ditherScan_sizes w h gray (w * h)).2]

end Sys2Proof.Machine
end

