-- ==== Sys2Proof/Laws/PerInstr.lean ====
section
/-! SUPPORT. Statements made per command: the family RoundTrip. -/

namespace Sys2Proof.Laws.RoundTrip

/-- The word of a well-formed command decodes to that command (30_encoding.md R61 to R63). -/
def Statement (i : Instr) : Prop := i.wf = true → decode (encode i) = .ok i

theorem nop : Statement .nop := fun _ => rfl
theorem pack : Statement .pack := fun _ => rfl
theorem unpack : Statement .unpack := fun _ => rfl
theorem adjc : Statement .adjc := fun _ => rfl
theorem adjb : Statement .adjb := fun _ => rfl
theorem binThr : Statement .binThr := fun _ => rfl
theorem binFs : Statement .binFs := fun _ => rfl
theorem binarize : Statement .binarize := fun _ => rfl
theorem invert : Statement .invert := fun _ => rfl
theorem convert : Statement .convert := fun _ => rfl
theorem verify : Statement .verify := fun _ => rfl
theorem stream : Statement .stream := fun _ => rfl
theorem patWhite : Statement .patWhite := fun _ => rfl
theorem patBlack : Statement .patBlack := fun _ => rfl
theorem patChecker : Statement .patChecker := fun _ => rfl
theorem patStripesH : Statement .patStripesH := fun _ => rfl
theorem patStripesV : Statement .patStripesV := fun _ => rfl
theorem patGradient : Statement .patGradient := fun _ => rfl
theorem patBorder : Statement .patBorder := fun _ => rfl
theorem patGrid : Statement .patGrid := fun _ => rfl
theorem patSplit : Statement .patSplit := fun _ => rfl
theorem patText : Statement .patText := fun _ => rfl
theorem reset : Statement .reset := fun _ => rfl

end Sys2Proof.Laws.RoundTrip
end

