-- ==== Sys2Proof/Laws/Step.lean ====
section
/-! SUPPORT. What a command and a step can do, said once. -/

namespace Sys2Proof.Machine

/-- The body of a frame command, its length check included; the other commands have none. -/
def frameBody : Instr → State → State
  | .nop => id
  | .pack => packBody
  | .unpack => unpackBody
  | .adjc => adjcBody
  | .adjb => adjbBody
  | .binThr => binThrBody
  | .binFs => binFsBody
  | .binarize => binarizeBody
  | .invert => invertBody
  | .convert => fun s => (convertBody s).sizeCheck .converter (encode .convert)
  | .verify => id
  | .stream => streamBody
  | .patWhite => fun s => (patBody patWhite s).sizeCheck .pattern (encode .patWhite)
  | .patBlack => fun s => (patBody patBlack s).sizeCheck .pattern (encode .patBlack)
  | .patChecker => fun s => (patBody patChecker s).sizeCheck .pattern (encode .patChecker)
  | .patStripesH => fun s => (patBody patStripesH s).sizeCheck .pattern (encode .patStripesH)
  | .patStripesV => fun s => (patBody patStripesV s).sizeCheck .pattern (encode .patStripesV)
  | .patGradient => fun s => (patBody patGradient s).sizeCheck .pattern (encode .patGradient)
  | .patBorder => fun s => (patBody patBorder s).sizeCheck .pattern (encode .patBorder)
  | .patGrid => fun s => (patBody patGrid s).sizeCheck .pattern (encode .patGrid)
  | .patSplit => fun s => (patBody patSplit s).sizeCheck .pattern (encode .patSplit)
  | .patText => fun s => (patBody patText s).sizeCheck .pattern (encode .patText)
  | .reset => id

/-- Every frame command is the guarded run of its body. -/
theorem exec_eq_frameCommand {i : Instr} (h : isFrame i = true) (s : State) :
    exec i s = .next (frameCommand (encode i) (frameBody i) s) := by
  cases i <;> first | rfl | cases h

/-- The three commands that are no frame commands. -/
theorem exec_nonframe {i : Instr} (h : isFrame i = false) : i = .nop ∨ i = .verify ∨ i = .reset := by
  cases i <;> first | (cases h; done) | simp

theorem exec_nop (s : State) : exec .nop s = .next s := by
  show Host.Outcome.next (unlessFaulted (fun s => s) s) = _
  unfold unlessFaulted
  split <;> rfl

theorem exec_verify (s : State) :
    exec .verify s = .next (unlessFaulted (fun s => s.sizeCheck .converter (encode .verify)) s) := rfl

theorem exec_reset (s : State) : exec .reset s = .next s.recover := rfl

/-- No command stops. -/
theorem exec_next (i : Instr) (s : State) : ∃ t, exec i s = .next t := by
  cases i <;> exact ⟨_, rfl⟩

/-- What a body may change: the frame memories, OUT and, through the length check, the registers. -/
structure BodyKeeps (s t : State) : Prop where
  params : t.params = s.params
  resets : t.resets = s.resets
  script : t.script = s.script
  answers : t.answers = s.answers
  taken : t.taken = s.taken

theorem BodyKeeps.rfl' (s : State) : BodyKeeps s s := ⟨rfl, rfl, rfl, rfl, rfl⟩

theorem BodyKeeps.trans {s t u : State} (h : BodyKeeps s t) (k : BodyKeeps t u) : BodyKeeps s u :=
  ⟨k.params.trans h.params, k.resets.trans h.resets, k.script.trans h.script,
    k.answers.trans h.answers, k.taken.trans h.taken⟩

theorem sizeCheck_keeps (kind : CheckKind) (cmd : Word) (s : State) :
    BodyKeeps s (s.sizeCheck kind cmd) := by
  rw [sizeCheck_eq_regs]; exact ⟨rfl, rfl, rfl, rfl, rfl⟩

theorem binarizeBody_keeps (s : State) : BodyKeeps s (binarizeBody s) := by
  unfold binarizeBody; split <;> exact ⟨rfl, rfl, rfl, rfl, rfl⟩

theorem step4_keeps (s : State) : BodyKeeps s (step4 s) := by
  unfold step4; split <;> exact ⟨rfl, rfl, rfl, rfl, rfl⟩

theorem step5_keeps (s : State) : BodyKeeps s (step5 s) := by
  unfold step5; split <;> exact ⟨rfl, rfl, rfl, rfl, rfl⟩

theorem step7_keeps (s : State) : BodyKeeps s (step7 s) := by
  unfold step7; split <;> exact ⟨rfl, rfl, rfl, rfl, rfl⟩

theorem convertBody_keeps (s : State) : BodyKeeps s (convertBody s) :=
  (((step4_keeps s).trans (step5_keeps _)).trans (binarizeBody_keeps _)).trans (step7_keeps _)
    |>.trans ⟨rfl, rfl, rfl, rfl, rfl⟩

theorem patBody_keeps (p : Nat → Nat → Nat → Nat → Bool) (s : State) : BodyKeeps s (patBody p s) :=
  ⟨rfl, rfl, rfl, rfl, rfl⟩

theorem frameBody_keeps (i : Instr) (s : State) : BodyKeeps s (frameBody i s) := by
  cases i <;> simp only [frameBody]
  case convert => exact (convertBody_keeps s).trans (sizeCheck_keeps _ _ _)
  case binarize => exact binarizeBody_keeps s
  all_goals
    first
    | exact (patBody_keeps _ s).trans (sizeCheck_keeps _ _ _)
    | exact ⟨rfl, rfl, rfl, rfl, rfl⟩

/-- The registers after steps 4 to 8 are the registers before: no body writes one. -/
@[simp] theorem binarizeBody_regs (s : State) : (binarizeBody s).regs = s.regs := by
  unfold binarizeBody; split <;> rfl

@[simp] theorem step4_regs (s : State) : (step4 s).regs = s.regs := by unfold step4; split <;> rfl

@[simp] theorem step5_regs (s : State) : (step5 s).regs = s.regs := by unfold step5; split <;> rfl

@[simp] theorem step7_regs (s : State) : (step7 s).regs = s.regs := by unfold step7; split <;> rfl

@[simp] theorem packBody_regs (s : State) : (packBody s).regs = s.regs := rfl

@[simp] theorem patBody_regs (p : Nat → Nat → Nat → Nat → Bool) (s : State) :
    (patBody p s).regs = s.regs := rfl

@[simp] theorem convertBody_regs (s : State) : (convertBody s).regs = s.regs := by
  simp [convertBody]

/-! ## The step -/

/-- Everything a step can do: idle, a port move, a command, or an illegal word. -/
theorem step_cases (s : State) :
    (s.script = [] ∧ step s = .next s) ∨
    (∃ m rest, s.script = m :: rest ∧ commandWord? m = none ∧
      step s = .next (s.nextMove.portMove m)) ∨
    (∃ w rest i, s.script = .wr cmdReg w :: rest ∧ decode w = .ok i ∧
      step s = exec i (s.nextMove.answer .done)) ∨
    (∃ w rest e, s.script = .wr cmdReg w :: rest ∧ decode w = .error e ∧
      step s = .next (illegalCommand w (s.nextMove.answer .done))) := by
  match hs : s.script with
  | [] => exact .inl ⟨rfl, by unfold step; rw [hs]⟩
  | m :: rest =>
    right
    match hm : commandWord? m with
    | none => exact .inl ⟨m, rest, rfl, hm, by unfold step; rw [hs]; simp [hm]⟩
    | some w =>
      have hmw : m = .wr cmdReg w := by
        cases m <;> simp [commandWord?] at hm ⊢
        exact hm
      subst hmw
      right
      match hd : decode w with
      | .ok i => exact .inl ⟨w, rest, i, rfl, hd, by unfold step; rw [hs]; simp [hm, command, hd]⟩
      | .error e => exact .inr ⟨w, rest, e, rfl, hd, by unfold step; rw [hs]; simp [hm, command, hd]⟩

/-- No step stops. -/
theorem step_next (s : State) : ∃ t, step s = .next t := by
  rcases step_cases s with ⟨-, h⟩ | ⟨m, _, -, -, h⟩ | ⟨w, _, i, -, -, h⟩ | ⟨w, _, e, -, -, h⟩
  · exact ⟨_, h⟩
  · exact ⟨_, h⟩
  · rw [h]; exact exec_next i _
  · exact ⟨_, h⟩

/-- Everything an access to an indexed cell can do (20_memory.md R44). -/
theorem inRange_cases (n i : Nat) (ok : State → State) (s : State) :
    (i < n ∧ s.inRange n i ok = ok s) ∨ (n ≤ i ∧ s.inRange n i ok = s.answer .error) := by
  unfold State.inRange
  by_cases h : i < n
  · exact .inl ⟨h, if_pos h⟩
  · exact .inr ⟨by omega, if_neg h⟩

end Sys2Proof.Machine
end

