-- ==== Sys2Proof/Tests/Slice0.lean ====
section
/-! SUPPORT. The model's own tests: well-formedness, decoding, one small step per command, and a witness for
the hypotheses of every statement that has some. Expected results come from 95_test_vectors.md (V-…, P…,
L1-…) or are worked by hand from the rule named. -/

open Sys2Proof Sys2Proof.Machine Sys2Proof.Spec

namespace Sys2Proof.Tests

/-! ## Helpers -/

/-- A BPU of capacity 20 × 16 after reset, set to a `w × h` frame. -/
def canvas (w h : Nat) : State :=
  let s := State.resetOf { wmax := 20, hmax := 16 }
  { s with regs := { s.regs with
      width := BitVec.ofNat 16 w, height := BitVec.ofNat 16 h, expLen := BitVec.ofNat 32 (packedLen w h) } }

/-- The same with these GRAY cells. -/
def grayCanvas (w h : Nat) (vs : List Nat) : State :=
  { canvas w h with gray := (List.range vs.length).zip (vs.map (BitVec.ofNat 8)) }

/-- The same with these MONO cells, given as 1 and 0. -/
def monoCanvas (w h : Nat) (vs : List Nat) : State :=
  { canvas w h with mono := (List.range vs.length).zip (vs.map fun v => decide (v = 1)) }

/-- The same with these PACKED cells. -/
def packedCanvas (w h : Nat) (vs : List Nat) : State :=
  { canvas w h with packed := (List.range vs.length).zip (vs.map (BitVec.ofNat 8)) }

/-- One field of the next state, if the step answers one. -/
def got {α : Type} (f : State → α) : Host.Outcome State Fault Refusal → Option α
  | .next t => some (f t)
  | .fault _ => none
  | .refused _ => none

/-- The values stored in a memory, in rising order of cells. -/
def vals {α : Type} (m : Memory α) : List α := m.map (·.2)

/-- STATUS and FAULTINFO as a host reads them. -/
def flags (s : State) : Word × Word := (s.regs.status, s.regs.faultInfo)

/-- `s` with these moves to come. -/
def script (ms : List HostMove) (s : State) : State := { s with script := ms }

/-- The state with a standing fault, as after writing 0x00000A30 to CMD. -/
def inFault (s : State) : State := faulted s .illegalCmd 0x00000A30

/-! ## Well-formedness: each check refuses an ill-formed term -/

theorem test_wf_register_in_range : HostMove.wf .production (.rd 11) = true := by decide
theorem test_wf_refuses_register_12 :
    HostMove.wf .production (.rd 12) = false ∧ HostMove.wf .production (.wr 12 0) = false := by decide
theorem test_wf_last_gray_cell : HostMove.wf .production (.ldG 1919999) = true := by decide
theorem test_wf_refuses_gray_out_of_range :
    HostMove.wf .production (.ldG 1920000) = false ∧ HostMove.wf .production (.stG 1920000 0) = false := by
  decide
theorem test_wf_refuses_mono_out_of_range :
    HostMove.wf .production (.ldM 1920000) = false ∧ HostMove.wf .production (.stM 1920000 0) = false := by
  decide
theorem test_wf_refuses_packed_out_of_range :
    HostMove.wf .production (.ldP 240000) = false ∧ HostMove.wf .production (.stP 240000 0) = false := by
  decide
theorem test_wf_production : Params.production.wf := by decide
theorem test_wf_refuses_zero_width : ¬ Params.wf { wmax := 0, hmax := 1 } := by decide
theorem test_wf_refuses_zero_height : ¬ Params.wf { wmax := 1, hmax := 0 } := by decide
theorem test_wf_refuses_width_65536 : ¬ Params.wf { wmax := 65536, hmax := 1 } := by decide
theorem test_wf_refuses_height_65536 : ¬ Params.wf { wmax := 1, hmax := 65536 } := by decide
theorem test_wf_refuses_repeated_cell : ¬ Memory.wf 4 [(1, (0 : Byte)), (1, 1)] := by decide
theorem test_wf_refuses_cell_outside : ¬ Memory.wf 4 [(1, (0 : Byte)), (4, 1)] := by decide

/-! ## Decoding: every command's word, its bits written out from 30_encoding.md R60, R62, R63:
rsv (20 bits), pat (4 bits), op (8 bits) -/

theorem test_decode_nop : decode 0b00000000000000000000000000000000 = .ok .nop := by decide
theorem test_decode_pack : decode 0b00000000000000000000000000000001 = .ok .pack := by decide
theorem test_decode_unpack : decode 0b00000000000000000000000000000010 = .ok .unpack := by decide
theorem test_decode_adjc : decode 0b00000000000000000000000000010000 = .ok .adjc := by decide
theorem test_decode_adjb : decode 0b00000000000000000000000000010001 = .ok .adjb := by decide
theorem test_decode_binThr : decode 0b00000000000000000000000000010010 = .ok .binThr := by decide
theorem test_decode_binFs : decode 0b00000000000000000000000000010011 = .ok .binFs := by decide
theorem test_decode_binarize : decode 0b00000000000000000000000000010100 = .ok .binarize := by decide
theorem test_decode_invert : decode 0b00000000000000000000000000010101 = .ok .invert := by decide
theorem test_decode_convert : decode 0b00000000000000000000000000100000 = .ok .convert := by decide
theorem test_decode_verify : decode 0b00000000000000000000000000100001 = .ok .verify := by decide
theorem test_decode_stream : decode 0b00000000000000000000000000100010 = .ok .stream := by decide
theorem test_decode_reset : decode 0b00000000000000000000000001111111 = .ok .reset := by decide
theorem test_decode_patWhite : decode 0b00000000000000000000000000110000 = .ok .patWhite := by decide
theorem test_decode_patBlack : decode 0b00000000000000000000000100110000 = .ok .patBlack := by decide
theorem test_decode_patChecker : decode 0b00000000000000000000001000110000 = .ok .patChecker := by decide
theorem test_decode_patStripesH : decode 0b00000000000000000000001100110000 = .ok .patStripesH := by decide
theorem test_decode_patStripesV : decode 0b00000000000000000000010000110000 = .ok .patStripesV := by decide
theorem test_decode_patGradient : decode 0b00000000000000000000010100110000 = .ok .patGradient := by decide
theorem test_decode_patBorder : decode 0b00000000000000000000011000110000 = .ok .patBorder := by decide
theorem test_decode_patGrid : decode 0b00000000000000000000011100110000 = .ok .patGrid := by decide
theorem test_decode_patSplit : decode 0b00000000000000000000100000110000 = .ok .patSplit := by decide
theorem test_decode_patText : decode 0b00000000000000000000100100110000 = .ok .patText := by decide

/-- 95_test_vectors.md 2.6: words that are no command, by the line of R61 that says so. -/
theorem test_decode_reserved_bits :
    decode 0x00001030 = .error .reservedBits ∧ decode 0x80000000 = .error .reservedBits ∧
      decode 0x0001007F = .error .reservedBits ∧ decode 0xFFFFFFFF = .error .reservedBits := by decide
theorem test_decode_unknown_op :
    decode 0x00000003 = .error .unknownOp ∧ decode 0x00000016 = .error .unknownOp ∧
      decode 0x00000023 = .error .unknownOp ∧ decode 0x00000031 = .error .unknownOp ∧
      decode 0x0000007E = .error .unknownOp ∧ decode 0x00000080 = .error .unknownOp ∧
      decode 0x000000FF = .error .unknownOp := by decide
theorem test_decode_unknown_pattern :
    decode 0x00000A30 = .error .unknownPattern ∧ decode 0x00000F30 = .error .unknownPattern := by decide
theorem test_decode_pattern_not_zero :
    decode 0x00000101 = .error .patternNotZero ∧ decode 0x00000120 = .error .patternNotZero ∧
      decode 0x0000017F = .error .patternNotZero := by decide
theorem test_decodeTableWord :
    decodeTableWord 32 0x930 = some .patText ∧ decodeTableWord 32 0x3 = none := by decide

/-! ## One step per command -/

/-- V-C1. -/
theorem test_pack : got (vals ·.packed) (exec .pack
    (monoCanvas 10 2 [1,0,0,1,0,0,0,0,0,1, 1,1,1,1,1,1,1,1,1,1])) = some [0x90, 0x40, 0xFF, 0xC0] := by
  decide
/-- V-C6: cell 6 is outside the active area and is not read. -/
theorem test_pack_ignores_inactive : got (vals ·.packed) (exec .pack (monoCanvas 3 2 [1,1,1,1,1,1,1])) =
    some [0xE0, 0xE0] := by decide
/-- V-C7. -/
theorem test_unpack : got (vals ·.mono) (exec .unpack (packedCanvas 10 1 [0xA5, 0xFF])) =
    some [true, false, true, false, false, true, false, true, true, true] := by decide
/-- V-C12, with capacity 20: BAD_DIM and nothing written. -/
theorem test_unpack_bad_dim :
    exec .unpack (canvas 21 1) = .next (faulted (canvas 21 1) .badDim 0x00000002) := by rfl

/-- 2.2, CQ = 0x0180. -/
theorem test_adjc : got (vals ·.gray) (exec .adjc
    (let s := grayCanvas 6 2 [0, 1, 36, 73, 109, 127, 128, 129, 146, 182, 219, 255]
     { s with regs := { s.regs with contrast := 0x0180 } })) =
    some [0, 0, 0, 45, 99, 126, 128, 129, 155, 209, 255, 255] := by decide
/-- 2.2, CQ = 0xFFFF. -/
theorem test_adjc_largest : got (vals ·.gray) (exec .adjc
    (let s := grayCanvas 3 1 [127, 128, 129]
     { s with regs := { s.regs with contrast := 0xFFFF } })) = some [0, 128, 255] := by decide
/-- 2.2, BQ = 0x0180. -/
theorem test_adjb : got (vals ·.gray) (exec .adjb
    (let s := grayCanvas 6 1 [0, 100, 150, 170, 171, 200]
     { s with regs := { s.regs with bright := 0x0180 } })) = some [0, 150, 225, 255, 255, 255] := by
  decide

/-- 2.3, T = 128. -/
theorem test_binThr : got (vals ·.mono) (exec .binThr (grayCanvas 8 1 [0, 1, 127, 128, 129, 254, 255, 128])) =
    some [true, true, true, false, false, false, false, false] := by decide
/-- 2.3, T = 255. -/
theorem test_binThr_255 : got (vals ·.mono) (exec .binThr
    (let s := grayCanvas 8 1 [0, 1, 127, 128, 129, 254, 255, 128]
     { s with regs := { s.regs with threshold := 255 } })) =
    some [true, true, true, true, true, true, false, true] := by decide
/-- V-D1. -/
theorem test_binFs : got (vals ·.mono) (exec .binFs (grayCanvas 4 2 [128,128,128,128,128,128,128,128])) =
    some [false, true, false, true, true, false, true, false] := by decide
/-- V-D7. -/
theorem test_binFs_odd : got (vals ·.mono) (exec .binFs (grayCanvas 3 3 [100,100,100,100,100,100,100,100,100])) =
    some [true, false, true, true, false, true, true, true, false] := by decide
/-- V-D10, MODE.DITHER = 0: BIN_THR. -/
theorem test_binarize_threshold : got (vals ·.mono) (exec .binarize (grayCanvas 2 1 [100, 100])) =
    some [true, true] := by decide
/-- V-D10, MODE.DITHER = 1: BIN_FS. -/
theorem test_binarize_dither : got (vals ·.mono) (exec .binarize
    (let s := grayCanvas 2 1 [100, 100]
     { s with regs := { s.regs with dither := true } })) = some [true, false] := by decide
/-- 2.3, INVERT; the cell outside the active area is kept. -/
theorem test_invert : got (vals ·.mono) (exec .invert (monoCanvas 10 1 [1,0,1,0,0,1,0,1,1,1,1])) =
    some [false, true, false, true, true, false, true, false, false, false, true] := by decide

/-- P2, its first row, which no later row can change: contrast 1.5, brightness 0.75, dither, invert. -/
theorem test_convert_all_steps : got (fun t => (vals t.gray, vals t.packed, flags t)) (exec .convert
    (let s := grayCanvas 8 1 [0, 36, 73, 109, 146, 182, 219, 255]
     { s with regs := { s.regs with
        threshold := 200, contrast := 0x0180, bright := 0x00C0, invert := true, dither := true } })) =
    some ([0, 0, 33, 74, 116, 156, 191, 191], [0x0B], (0, 0)) := by decide +kernel
/-- P4: the body runs, then SIZE_MISMATCH. -/
theorem test_convert_size_mismatch : got (fun t => (vals t.packed, flags t)) (exec .convert
    (let s := grayCanvas 10 1 [0,0,0,0,0,0,0,0,0,0]
     { s with regs := { s.regs with expLen := 1 } })) = some ([0xFF, 0xC0], (0x2, 0x20)) := by decide
/-- V-P5. -/
theorem test_verify_warns : got flags (exec .verify
    (let s := canvas 10 3
     { s with regs := { s.regs with expLen := 3, strict := false } })) = some (0x10, 0) := by decide
/-- V-P6. -/
theorem test_verify_faults : got flags (exec .verify
    (let s := canvas 10 3
     { s with regs := { s.regs with expLen := 3 } })) = some (0x02, 0x21) := by decide
/-- V-P9. -/
theorem test_stream : got State.out (exec .stream { packedCanvas 16 2 [0xFF, 0x00, 0x0F, 0xF0] with out := [1] }) =
    some [1, 0xFF, 0x00, 0x0F, 0xF0] := by decide
/-- V-P11. -/
theorem test_stream_bad_dim : exec .stream (canvas 0 3) = .next (faulted (canvas 0 3) .badDim 0x22) := by rfl
/-- 2.6, fault state: NOP changes nothing. -/
theorem test_nop : exec .nop (inFault (canvas 8 1)) = .next (inFault (canvas 8 1)) := by rfl
/-- 2.6, fault state: RESET; WIDTH becomes the capacity. -/
theorem test_reset : got (fun t => (flags t, t.regs.width, vals t.gray)) (exec .reset (inFault (grayCanvas 2 1 [7, 8]))) =
    some ((0, 0), 20, [7, 8]) := by decide
/-- 2.6, fault state: PAT.WHITE is refused. -/
theorem test_refused : exec .patWhite (inFault (canvas 8 1)) = .next (inFault (canvas 8 1)) := by rfl

/-- 2.5, small canvas 20 × 4. -/
theorem test_patWhite : got (fun t => (vals t.packed, flags t)) (exec .patWhite (canvas 20 4)) =
    some ([0x00, 0x00, 0x00, 0x00, 0x00, 0x00, 0x00, 0x00, 0x00, 0x00, 0x00, 0x00], (0, 0)) := by decide
/-- 2.5, small canvas 20 × 4. -/
theorem test_patBlack : got (fun t => (vals t.packed, flags t)) (exec .patBlack (canvas 20 4)) =
    some ([0xFF, 0xFF, 0xF0, 0xFF, 0xFF, 0xF0, 0xFF, 0xFF, 0xF0, 0xFF, 0xFF, 0xF0], (0, 0)) := by decide
/-- 2.5, small canvas 20 × 4. -/
theorem test_patChecker : got (fun t => (vals t.packed, flags t)) (exec .patChecker (canvas 20 4)) =
    some ([0xFF, 0x00, 0xF0, 0xFF, 0x00, 0xF0, 0xFF, 0x00, 0xF0, 0xFF, 0x00, 0xF0], (0, 0)) := by decide
/-- By hand from R130: a black band of 10 rows, then a white one; pad bits clear. -/
theorem test_patStripesH : got (fun t => (vals t.packed, flags t)) (exec .patStripesH (canvas 5 11)) =
    some ([0xF8, 0xF8, 0xF8, 0xF8, 0xF8, 0xF8, 0xF8, 0xF8, 0xF8, 0xF8, 0x00], (0, 0)) := by decide
/-- 2.5, small canvas 20 × 4. -/
theorem test_patStripesV : got (fun t => (vals t.packed, flags t)) (exec .patStripesV (canvas 20 4)) =
    some ([0xFF, 0xFF, 0x00, 0xFF, 0xFF, 0x00, 0xFF, 0xFF, 0x00, 0xFF, 0xFF, 0x00], (0, 0)) := by decide
/-- 2.5, small canvas 20 × 4. -/
theorem test_patGradient : got (fun t => (vals t.packed, flags t)) (exec .patGradient (canvas 20 4)) =
    some ([0x00, 0x00, 0x00, 0xE0, 0x01, 0xC0, 0xFC, 0x03, 0xF0, 0xFF, 0x87, 0xF0], (0, 0)) := by decide
/-- 2.5, small canvas 20 × 4. -/
theorem test_patBorder : got (fun t => (vals t.packed, flags t)) (exec .patBorder (canvas 20 4)) =
    some ([0xFF, 0xFF, 0xF0, 0xFF, 0xFF, 0xF0, 0xFF, 0xFF, 0xF0, 0xFF, 0xFF, 0xF0], (0, 0)) := by decide
/-- 2.5, small canvas 20 × 4. -/
theorem test_patGrid : got (fun t => (vals t.packed, flags t)) (exec .patGrid (canvas 20 4)) =
    some ([0xFF, 0xFF, 0xF0, 0xFF, 0xFF, 0xF0, 0xC0, 0x00, 0x00, 0xC0, 0x00, 0x00], (0, 0)) := by decide
/-- 2.5, small canvas 20 × 4. -/
theorem test_patSplit : got (fun t => (vals t.packed, flags t)) (exec .patSplit (canvas 20 4)) =
    some ([0xFF, 0xFF, 0x00, 0xFF, 0xFF, 0x00, 0xFF, 0xFF, 0x00, 0xFF, 0xFF, 0x00], (0, 0)) := by decide
/-- 2.5, small canvas 20 × 4. -/
theorem test_patText : got (fun t => (vals t.packed, flags t)) (exec .patText (canvas 20 4)) =
    some ([0x00, 0x3F, 0xF0, 0x00, 0x3F, 0xF0, 0x00, 0x3F, 0xF0, 0x00, 0x3F, 0xF0], (0, 0)) := by decide
/-- 2.5, length check in a pattern: a fault whatever CTRL.STRICT holds, after the whole body. -/
theorem test_pattern_size_mismatch : got (fun t => (vals t.mono, vals t.packed, flags t)) (exec .patBlack
    (let s := canvas 8 1
     { s with regs := { s.regs with expLen := 40, strict := false } })) =
    some ([true, true, true, true, true, true, true, true], [0xFF], (0x02, 0x130)) := by decide
/-- 2.6, priority: BAD_DIM before SIZE_MISMATCH, nothing written. -/
theorem test_pattern_priority :
    exec .patBlack (let s := canvas 0 1
      { s with regs := { s.regs with expLen := 40 } }) =
    .next (faulted (let s := canvas 0 1
      { s with regs := { s.regs with expLen := 40 } }) .badDim 0x130) := by rfl

/-! ## The ports -/

/-- V-R1, V-R2, V-R3, V-R4, V-R9. -/
theorem test_writes_truncate :
    got (·.regs.threshold) (step (script [.wr 8 0x000001FF] State.reset)) = some 0xFF ∧
    got (·.regs.width) (step (script [.wr 4 0x00012345] State.reset)) = some 0x2345 ∧
    got (·.regs.mode) (step (script [.wr 11 0xFFFFFFFF] State.reset)) = some 3 ∧
    got (·.regs.strict) (step (script [.wr 0 0xFFFFFFFE] State.reset)) = some false ∧
    got (·.regs.contrast) (step (script [.wr 9 0x00030200] State.reset)) = some 0x0200 := by decide
/-- V-R5: PLEN and FAULTINFO ignore writes. -/
theorem test_read_only :
    got (·.regs) (step (script [.wr 7 5] State.reset)) = some State.reset.regs ∧
    got (·.regs) (step (script [.wr 2 5] State.reset)) = some State.reset.regs := by decide
/-- V-R7: write-1-to-clear. -/
theorem test_clear_warning :
    got flags (step (script [.wr 1 0x1F]
      (let s := canvas 8 1
       { s with regs := { s.regs with fault := .sizeMismatch, faultInfo := 0x21, warnSize := true } }))) =
    some (0x02, 0x21) := by decide
/-- V-R8. -/
theorem test_warning_kept :
    got flags (step (script [.wr 1 0]
      (let s := canvas 8 1
       { s with regs := { s.regs with warnSize := true } }))) = some (0x10, 0) := by decide
/-- V-R10. -/
theorem test_reset_reads : (List.range 12).map State.reset.readReg =
    [some 0x1, some 0, some 0, some 0, some 0x640, some 0x4B0, some 0x3A980, some 0x3A980, some 0x80,
     some 0x100, some 0x100, some 0] := by decide
/-- V-P13. -/
theorem test_plen_largest :
    got (·.answers) (step (script [.rd 7]
      (let s := canvas 8 1
       { s with regs := { s.regs with width := 65535, height := 65535 } }))) = some [.word 0x1FFFE000] := by
  decide
/-- 20_memory.md R44: an access out of range is an error and changes nothing. -/
theorem test_out_of_range :
    step (script [.stP 48 1] (canvas 8 1)) = .next { canvas 8 1 with answers := [.error] } := by rfl
/-- P6 and 2.6: an illegal word faults; a second one changes nothing. -/
theorem test_illegal :
    got flags (step (script [.wr 3 0x00000A30] (canvas 8 1))) = some (0x03, 0xA30) ∧
    got flags (step (script [.wr 3 0x00000003] (inFault (canvas 8 1)))) = some (0x03, 0xA30) ∧
    got flags (step (script [.wr 3 0x0001007F] (inFault (canvas 8 1)))) = some (0x03, 0xA30) := by
  decide
/-- 20_memory.md R41: the consumer receives each byte once. -/
theorem test_consume :
    got (fun t => (t.answers, t.taken)) (step (script [.consume] { canvas 8 1 with out := [1, 2, 3], taken := 1 })) =
    some ([.bytes [2, 3]], 3) := by decide
/-- 30_encoding.md R73. -/
theorem test_setdim : Script.setdim 10 3 = [.wr 4 10, .wr 5 3, .wr 6 6] := by decide
theorem test_script_pat : Script.pat 9 = Script.command .patText ∧ Script.pat 10 = .wr 3 0xA30 := by decide
theorem test_config : Script.config 200 0x0180 0x00C0 1 1 = [.wr 8 200, .wr 9 0x180, .wr 10 0xC0, .wr 11 3] := by
  decide

/-! ## Witnesses: for each statement with hypotheses, states and operands that meet all of them together -/

/-- `FrameCommand`, both clauses at the ends of their ranges: the largest and the smallest frame run; width
or height 0 or one above the capacity do not. These are the hypotheses of PackWritesThePackedForm,
UnpackReadsThePixelBits, ContrastAdjustsEveryActiveSample, BrightnessAdjustsEveryActiveSample,
DitherSolvesTheDiffusionEquations, InvertComplementsMono, StreamEmitsTheFrameInOrder and of the statements about
single patterns; the first clause is that of UnpackAfterPackRestoresMono, PackAfterUnpackRestoresPacked and
ActiveCellsFitAndAreDistinct. -/
theorem witness_FrameCommand :
    ((canvas 20 16).ready ∧ (canvas 1 1).ready) ∧
    ((canvas 0 1).regs.fault = .none ∧ ¬ (canvas 0 1).validDims) ∧
    ((canvas 1 0).regs.fault = .none ∧ ¬ (canvas 1 0).validDims) ∧
    ((canvas 21 16).regs.fault = .none ∧ ¬ (canvas 21 16).validDims) ∧
    ((canvas 20 17).regs.fault = .none ∧ ¬ (canvas 20 17).validDims) := by decide

/-- The inner ranges of `PackedAs`: a pixel bit and a pad bit of the same byte; a width that is a multiple of
8; a cell just outside the active area. -/
theorem witness_PackedAs :
    ((0 < (canvas 9 1).h ∧ 1 < bpr (canvas 9 1).w) ∧ 8 * 1 + 0 < (canvas 9 1).w ∧
      ¬ 8 * 1 + 1 < (canvas 9 1).w) ∧
    (canvas 16 2).w % 8 = 0 ∧ (canvas 9 1).plen ≤ 2 ∧ (canvas 9 1).w * (canvas 9 1).h ≤ 9 := by decide

/-- The pattern statements' clauses about the length check. -/
theorem witness_Pattern :
    ((canvas 10 3).ready ∧ (canvas 10 3).plen = (canvas 10 3).regs.expLen.toNat) ∧
    (let s := canvas 10 3
     let u := { s with regs := { s.regs with expLen := 3 } }
     u.ready ∧ u.plen ≠ u.regs.expLen.toNat) := by decide

theorem witness_ResetValuesOfTheState :
    Params.production.wf ∧ Params.wf { wmax := 1, hmax := 1 } ∧
      Params.wf { wmax := 65535, hmax := 65535 } ∧ State.reset.params.wf := by decide

theorem witness_HardwareResetFromAnyState : (inFault (canvas 8 1)).params.wf := by decide

theorem witness_ResetCommandRestoresRegisters :
    Instr.nop ≠ .reset ∧ (inFault (canvas 8 1)).regs.fault ≠ .none := by decide

/-- One word for each clause, at the ends of its range. -/
theorem witness_DecodeFollowsTheRule :
    ((0x1000 : Word).toNat / 4096 ≠ 0 ∧ (0x0FFF : Word).toNat / 4096 = 0) ∧
    (0x0FFF : Word).toNat % 256 ∉ [0x00, 0x01, 0x02, 0x10, 0x11, 0x12, 0x13, 0x14, 0x15, 0x20, 0x21, 0x22,
      0x30, 0x7F] ∧
    ((0x0A30 : Word).toNat % 256 = 0x30 ∧ 10 ≤ (0x0A30 : Word).toNat / 256) ∧
    ([Instr.patWhite, .patBlack, .patChecker, .patStripesH, .patStripesV, .patGradient, .patBorder, .patGrid,
      .patSplit, .patText][(0x0930 : Word).toNat / 256]? = some .patText) ∧
    ((0x017F : Word).toNat % 256 = 0x7F ∧ (0x017F : Word).toNat / 256 ≠ 0) ∧
    ((0x007F : Word).toNat % 256 = 0x7F ∧ (0x007F : Word).toNat / 256 = 0) := by decide

theorem witness_StepRunsTheDecodedCommand : decode 0x0000007F = .ok .reset := by decide

theorem witness_IllegalWordRaisesIllegalCmd :
    decode 0x00000A30 = .error .unknownPattern ∧ (canvas 8 1).regs.fault = .none := by decide

/-- The five clauses: the RESET word, refusal, an illegal word, bad dimensions, and a command that runs, of a
frame and of no frame. -/
theorem witness_CommandWriteFollowsDispatchOrder :
    ((0x00000000 : Word) ≠ 0x0000007F ∧ (inFault (canvas 8 1)).regs.fault ≠ .none) ∧
    ((0x00000003 : Word) ≠ 0x0000007F ∧ (canvas 8 1).regs.fault = .none ∧
      ∀ i, decode 0x00000003 ≠ .ok i) ∧
    ((0x00000001 : Word) ≠ 0x0000007F ∧ decode 0x00000001 = .ok .pack ∧ isFrame .pack = true ∧
      (canvas 0 1).regs.fault = .none ∧ ¬ (canvas 0 1).validDims ∧ (canvas 8 1).validDims) ∧
    ((0x00000021 : Word) ≠ 0x0000007F ∧ decode 0x00000021 = .ok .verify ∧
      (isFrame .verify = true → (canvas 0 1).validDims)) := by
  refine ⟨by decide, ⟨by decide, by decide, fun i h => ?_⟩, by decide, by decide⟩
  have : decode 0x00000003 = .error .unknownOp := by decide
  rw [this] at h
  cases h

theorem witness_StepWithoutMoveIsIdle : State.reset.script = [] := by decide

theorem witness_RegisterReadAnswersFields : 0 < 12 ∧ 11 < 12 := by decide

/-- One register number for each kind of register the statement tells apart. -/
theorem witness_RegisterWriteStoresTruncatedFields :
    (0 < 12 ∧ 0 ≠ 3) ∧ (1 < 12 ∧ 1 ≠ 3) ∧ (2 < 12 ∧ 2 ≠ 3) ∧ (7 < 12 ∧ 7 ≠ 3) ∧ (11 < 12 ∧ 11 ≠ 3) := by
  decide

/-- The last cell of each space. -/
theorem witness_CellStoreAndLoad : 319 < (canvas 8 1).params.npix ∧ 47 < (canvas 8 1).params.npack := by
  decide

/-- The first number outside each space. -/
theorem witness_AccessOutOfRangeIsAnError :
    12 ≤ 12 ∧ (canvas 8 1).params.npix ≤ 320 ∧ (canvas 8 1).params.npack ≤ 48 := by decide

theorem witness_ConsumeDeliversTheNewBytes :
    let s := { canvas 8 1 with out := [1, 2, 3], taken := 1 }
    s.out = [1] ++ [2, 3] ∧ s.taken = [(1 : Byte)].length := by decide

theorem witness_FrameCommandsRejectBadDimensions :
    isFrame .stream = true ∧ (canvas 0 1).regs.fault = .none ∧ (canvas 0 1).regs.width.toNat = 0 ∧
    (canvas 1 0).regs.height.toNat = 0 ∧ (canvas 21 1).params.wmax < (canvas 21 1).regs.width.toNat ∧
    (canvas 1 17).params.hmax < (canvas 1 17).regs.height.toNat := by decide

/-- Samples in order, the pivot, and both multipliers at 1.0. -/
theorem witness_ToneMapsAreMonotoneAndFixed :
    let s := grayCanvas 2 1 [127, 128]
    s.ready ∧ (0 < s.w * s.h ∧ 1 < s.w * s.h ∧ (s.grayAt 0).toNat ≤ (s.grayAt 1).toNat) ∧
      s.grayAt 1 = 128 ∧ s.regs.contrast = 0x0100 ∧ s.regs.bright = 0x0100 := by decide

/-- A sample one below the threshold and one equal to it. -/
theorem witness_ThresholdIsStrictlyBelow :
    let s := grayCanvas 2 1 [127, 128]
    s.ready ∧ (s.grayAt 0).toNat + 1 = s.regs.threshold.toNat ∧
      (s.grayAt 1).toNat = s.regs.threshold.toNat := by decide

/-- V-D10 solves the equations: errors 100 and 143 - 255 = -112. -/
theorem witness_DiffusionEquationsDetermineThePicture :
    let s := grayCanvas 2 1 [100, 100]
    s.ready ∧ Diffused s.w s.h s.grayAt (fun i => decide (i = 0)) := by
  refine ⟨by decide, fun x _ => if x = 0 then 100 else -112, fun x _ => if x = 0 then 100 else 143, ?_⟩
  decide

/-- The whole frame and no pixel of it. -/
theorem witness_DitherErrorsStayInEightBits : 8 ≤ 4 * 2 ∧ 0 ≤ 4 * 2 := by decide

theorem witness_DitherIgnoresTheThreshold :
    (Instr.convert = .binarize ∨ Instr.convert = .convert) ∧
    (let s := canvas 8 1
     { s with regs := { s.regs with dither := true } }.regs.dither = true) := by decide

/-- Two states with the same frame and different registers, memories and output. -/
theorem witness_DitherDependsOnTheFrameAlone :
    let s := grayCanvas 2 1 [100, 100]
    let s' := { s with
      regs := { s.regs with threshold := 5, contrast := 0 }, mono := [(0, false)], out := [1] }
    s.ready ∧ s'.ready ∧ s.regs.width = s'.regs.width ∧ s.regs.height = s'.regs.height ∧
      ∀ i, i < s.w * s.h → s.grayAt i = s'.grayAt i :=
  ⟨by decide, by decide, by decide, by decide, fun _ _ => rfl⟩

theorem witness_UniformFramesDitherToUniform :
    ((grayCanvas 2 1 [0, 0]).ready ∧
      ∀ i, i < (grayCanvas 2 1 [0, 0]).w * (grayCanvas 2 1 [0, 0]).h →
        (grayCanvas 2 1 [0, 0]).grayAt i = 0) ∧
    ((grayCanvas 2 1 [255, 255]).ready ∧
      ∀ i, i < (grayCanvas 2 1 [255, 255]).w * (grayCanvas 2 1 [255, 255]).h →
        (grayCanvas 2 1 [255, 255]).grayAt i = 255) ∧
    (grayCanvas 1 1 [127]).ready ∧ (grayCanvas 1 1 [127]).w = 1 ∧ (grayCanvas 1 1 [127]).h = 1 := by
  decide

theorem witness_BinarizeSelectsTheMode :
    ((canvas 8 1).ready ∧ (canvas 8 1).regs.dither = false) ∧
    (let s := canvas 8 1
     let u := { s with regs := { s.regs with dither := true } }
     u.ready ∧ u.regs.dither = true) := by decide

/-- The three outcomes of the length check. -/
theorem witness_ConvertInThresholdMode :
    ((canvas 10 3).ready ∧ (canvas 10 3).regs.dither = false ∧
      (canvas 10 3).plen = (canvas 10 3).regs.expLen.toNat) ∧
    (let s := canvas 10 3
     let u := { s with regs := { s.regs with expLen := 3 } }
     u.ready ∧ u.regs.dither = false ∧ u.plen ≠ u.regs.expLen.toNat ∧ u.regs.strict = true) ∧
    (let s := canvas 10 3
     let u := { s with regs := { s.regs with expLen := 3, strict := false } }
     u.ready ∧ u.regs.dither = false ∧ u.plen ≠ u.regs.expLen.toNat ∧ u.regs.strict = false) := by decide

theorem witness_ConvertInDitherMode :
    (let s := canvas 10 3
     let u := { s with regs := { s.regs with dither := true } }
     u.ready ∧ u.regs.dither = true ∧ u.plen = u.regs.expLen.toNat) ∧
    (let s := canvas 10 3
     let u := { s with regs := { s.regs with dither := true, expLen := 3 } }
     u.ready ∧ u.regs.dither = true ∧ u.plen ≠ u.regs.expLen.toNat ∧ u.regs.strict = true) ∧
    (let s := canvas 10 3
     let u := { s with regs := { s.regs with dither := true, expLen := 3, strict := false } }
     u.ready ∧ u.regs.dither = true ∧ u.plen ≠ u.regs.expLen.toNat ∧ u.regs.strict = false) := by decide

/-- Valid dimensions with and without a mismatch, and invalid ones. -/
theorem witness_ConvertEqualsTheSingleCommands :
    ((canvas 8 1).regs.fault = .none ∧ (canvas 8 1).validDims) ∧
    ((canvas 0 1).regs.fault = .none ∧ ¬ (canvas 0 1).validDims) ∧
    got (·.regs.fault) (step (script [Script.command .convert]
      (let s := grayCanvas 2 1 [0, 0]
       { s with regs := { s.regs with expLen := 9 } }))) = some .sizeMismatch := by decide

/-- A pixel bit and a pad bit. -/
theorem witness_InversionComplementsThePackedPicture :
    (canvas 10 1).ready ∧ (canvas 10 1).regs.invert = false ∧ 0 < (canvas 10 1).h ∧
      1 < bpr (canvas 10 1).w ∧ 8 * 1 + 1 < (canvas 10 1).w ∧ (canvas 10 1).w ≤ 8 * 1 + 2 := by decide

theorem witness_MidGrayConvertsToWhite :
    let s := grayCanvas 2 1 [128, 128]
    s.ready ∧ s.regs.contrast = 0x0100 ∧ s.regs.bright = 0x0100 ∧ s.regs.threshold = 128 ∧
      s.regs.dither = false ∧ s.regs.invert = false ∧ s.plen = s.regs.expLen.toNat ∧
      ∀ i, i < s.w * s.h → s.grayAt i = 128 := by decide

/-- Equal lengths (0 too), and a mismatch in both settings of CTRL.STRICT. -/
theorem witness_VerifyComparesTheLengths :
    ((canvas 0 1).regs.fault = .none ∧
      ((canvas 0 1).regs.width.toNat + 7) / 8 * (canvas 0 1).regs.height.toNat =
        (canvas 0 1).regs.expLen.toNat) ∧
    (let s := canvas 10 3
     let u := { s with regs := { s.regs with expLen := 3 } }
     u.regs.fault = .none ∧
       (u.regs.width.toNat + 7) / 8 * u.regs.height.toNat ≠ u.regs.expLen.toNat ∧ u.regs.strict = true) ∧
    (let s := canvas 10 3
     let u := { s with regs := { s.regs with expLen := 3, strict := false } }
     (u.regs.width.toNat + 7) / 8 * u.regs.height.toNat ≠ u.regs.expLen.toNat ∧
       u.regs.strict = false) := by decide

/-- The last whole byte of a row. -/
theorem witness_GroupPatternsGiveWholeBytes :
    Instr.patSplit ∈ [Instr.patWhite, .patBlack, .patChecker, .patStripesH, .patStripesV, .patSplit] ∧
      (canvas 16 2).ready ∧ 1 < (canvas 16 2).h ∧ 8 * 1 + 8 ≤ (canvas 16 2).w := by decide

/-- The three moves that change a configuration register, here THRESHOLD. -/
theorem witness_OnlyHostWritesAndResetsConfigure :
    let s := canvas 8 1
    let u := { s with regs := { s.regs with threshold := 5 } }
    got (·.regs.threshold) (step (script [.wr 8 5] s)) = some 5 ∧ s.regs.threshold = 128 ∧
    got (·.regs.threshold) (step (script [.hardReset] u)) = some 128 ∧
    got (·.regs.threshold) (step (script [.wr 3 0x0000007F] u)) = some 128 ∧ u.regs.threshold = 5 := by
  decide

/-- A fault entered, one that stays, and one that a reset ends. -/
theorem witness_FaultStaysUntilReset :
    got (·.regs.fault) (step (script [.wr 3 0x00000A30] (canvas 8 1))) = some .illegalCmd ∧
    (inFault (canvas 8 1)).regs.fault ≠ .none ∧
    got (·.regs.fault) (step (script [.wr 4 5] (inFault (canvas 8 1)))) = some .illegalCmd ∧
    got (·.regs.fault) (step (script [.wr 3 0x7F] (inFault (canvas 8 1)))) = some .none := by
  decide

/-- One step of each of the three kinds. -/
theorem witness_OnlyStreamEmits :
    let s := { packedCanvas 8 1 [0xAA] with out := [1] }
    got State.out (step (script [.rd 1] s)) = some [1] ∧
    got State.out (step (script [.wr 3 0x22] s)) = some [1, 0xAA] ∧
    got State.out (step (script [.hardReset] s)) = some [] := by decide

theorem witness_CommandsKeepInactiveCells :
    (∃ t, exec .invert (monoCanvas 3 2 [1, 1, 1, 1, 1, 1, 1]) = .next t) ∧ (canvas 3 2).w * (canvas 3 2).h ≤ 6 ∧
      (canvas 3 2).plen ≤ 2 := ⟨⟨_, rfl⟩, by decide, by decide⟩

/-- A state with listed cells and output, and a step from it. -/
theorem witness_EveryStepKeepsTheInvariant :
    let s := script [.stG 3 7] { packedCanvas 8 2 [1, 2] with out := [1, 2], taken := 2 }
    s.Inv ∧ ∃ t, step s = .next t := ⟨by decide, _, rfl⟩

/-- No fault, and each of the three faults. -/
theorem witness_EveryStepKeepsTheFaultRecord :
    (canvas 8 1).faultRecorded = true ∧ (inFault (canvas 8 1)).faultRecorded = true ∧
    (faulted (canvas 8 1) .badDim 0x22).faultRecorded = true ∧
    (faulted (canvas 8 1) .sizeMismatch 0x21).faultRecorded = true ∧
    ∃ t, step (inFault (canvas 8 1)) = .next t := ⟨by decide, by decide, by decide, by decide, _, rfl⟩


end Sys2Proof.Tests
end

section
/-! PROOFS. The invariant State.Inv (00_scope.md R5, 20_memory.md R40): the reset state meets it, every operation
of the model keeps it, and so does every step. -/

namespace Sys2Proof.Machine

/-! ## The operations of the state keep the invariant -/

section Operations

variable {s : State}

theorem State.Inv.resetOf {p : Params} (h : p.wf) : (State.resetOf p).Inv :=
  ⟨h, Memory.wf_nil _, Memory.wf_nil _, Memory.wf_nil _, Nat.le_refl 0⟩

theorem State.Inv.hardReset (h : s.Inv) : s.hardReset.Inv :=
  ⟨h.1, Memory.wf_nil _, Memory.wf_nil _, Memory.wf_nil _, Nat.le_refl 0⟩

/-- The invariant does not see the registers. -/
theorem State.Inv.setRegs (h : s.Inv) (r : Regs) : State.Inv { s with regs := r } := h

/-- The invariant does not see the answers. -/
theorem State.Inv.answer (h : s.Inv) (a : Answer) : (s.answer a).Inv := h

/-- The invariant does not see the script. -/
theorem State.Inv.nextMove (h : s.Inv) : s.nextMove.Inv := h

theorem State.Inv.raiseFault (h : s.Inv) (c : FaultCode) (w : Word) : (s.raiseFault c w).Inv :=
  h.setRegs _

theorem State.Inv.recover (h : s.Inv) : s.recover.Inv := h.setRegs _

theorem State.Inv.sizeCheck (h : s.Inv) (kind : CheckKind) (cmd : Word) :
    (s.sizeCheck kind cmd).Inv := by
  rw [sizeCheck_eq_regs]
  exact h.setRegs _

theorem State.Inv.writeGray (h : s.Inv) {i : Nat} (hi : i < s.params.npix) (v : Byte) :
    (s.writeGray i v).Inv := by
  obtain ⟨hparams, hgray, hmono, hpacked, htaken⟩ := h
  exact ⟨hparams, Memory.wf_write hgray hi v, hmono, hpacked, htaken⟩

theorem State.Inv.writeMono (h : s.Inv) {i : Nat} (hi : i < s.params.npix) (v : Bool) :
    (s.writeMono i v).Inv := by
  obtain ⟨hparams, hgray, hmono, hpacked, htaken⟩ := h
  exact ⟨hparams, hgray, Memory.wf_write hmono hi v, hpacked, htaken⟩

theorem State.Inv.writePacked (h : s.Inv) {i : Nat} (hi : i < s.params.npack) (v : Byte) :
    (s.writePacked i v).Inv := by
  obtain ⟨hparams, hgray, hmono, hpacked, htaken⟩ := h
  exact ⟨hparams, hgray, hmono, Memory.wf_write hpacked hi v, htaken⟩

theorem State.Inv.putGray (h : s.Inv) {vs : List Byte} (hv : vs.length ≤ s.params.npix) :
    (s.putGray vs).Inv := by
  obtain ⟨hparams, hgray, hmono, hpacked, htaken⟩ := h
  exact ⟨hparams, Memory.wf_overwrite hgray hv, hmono, hpacked, htaken⟩

theorem State.Inv.putMono (h : s.Inv) {vs : List Bool} (hv : vs.length ≤ s.params.npix) :
    (s.putMono vs).Inv := by
  obtain ⟨hparams, hgray, hmono, hpacked, htaken⟩ := h
  exact ⟨hparams, hgray, Memory.wf_overwrite hmono hv, hpacked, htaken⟩

theorem State.Inv.putPacked (h : s.Inv) {vs : List Byte} (hv : vs.length ≤ s.params.npack) :
    (s.putPacked vs).Inv := by
  obtain ⟨hparams, hgray, hmono, hpacked, htaken⟩ := h
  exact ⟨hparams, hgray, hmono, Memory.wf_overwrite hpacked hv, htaken⟩

theorem State.Inv.emit (h : s.Inv) (bs : List Byte) : (s.emit bs).Inv := by
  obtain ⟨hparams, hgray, hmono, hpacked, htaken⟩ := h
  refine ⟨hparams, hgray, hmono, hpacked, ?_⟩
  simpa using Nat.le_add_right_of_le htaken

/-- The consumer catches up with OUT. -/
theorem State.Inv.takeAll (h : s.Inv) : State.Inv { s with taken := s.out.length } := by
  obtain ⟨hparams, hgray, hmono, hpacked, -⟩ := h
  exact ⟨hparams, hgray, hmono, hpacked, Nat.le_refl _⟩

end Operations

/-! ## The bodies of the frame commands keep the invariant

A body writes whole active frames, which fit their memories as long as the dimensions are valid. CONVERT and PAT
chain bodies, so what each body hands on is the invariant together with the valid dimensions. -/

/-- The invariant, and dimensions with which a frame command's body runs. -/
structure State.FrameInv (s : State) : Prop where
  inv : s.Inv
  dims : s.validDims

section Bodies

variable {s : State}

theorem State.FrameInv.putGray (h : s.FrameInv) {vs : List Byte} (hv : vs.length = s.w * s.h) :
    (s.putGray vs).FrameInv :=
  ⟨h.inv.putGray (hv ▸ State.active_le_npix h.dims), h.dims⟩

theorem State.FrameInv.putMono (h : s.FrameInv) {vs : List Bool} (hv : vs.length = s.w * s.h) :
    (s.putMono vs).FrameInv :=
  ⟨h.inv.putMono (hv ▸ State.active_le_npix h.dims), h.dims⟩

theorem State.FrameInv.putPacked (h : s.FrameInv) {vs : List Byte} (hv : vs.length = s.plen) :
    (s.putPacked vs).FrameInv :=
  ⟨h.inv.putPacked (hv ▸ State.plen_le_npack h.dims), h.dims⟩

theorem State.FrameInv.packBody (h : s.FrameInv) : (packBody s).FrameInv :=
  h.putPacked (length_packedForm _ _ _)

theorem State.FrameInv.unpackBody (h : s.FrameInv) : (unpackBody s).FrameInv :=
  h.putMono (length_raster _ _ _)

theorem State.FrameInv.adjcBody (h : s.FrameInv) : (adjcBody s).FrameInv := h.putGray (by simp)

theorem State.FrameInv.adjbBody (h : s.FrameInv) : (adjbBody s).FrameInv := h.putGray (by simp)

theorem State.FrameInv.binThrBody (h : s.FrameInv) : (binThrBody s).FrameInv := h.putMono (by simp)

theorem State.FrameInv.binFsBody (h : s.FrameInv) : (binFsBody s).FrameInv :=
  h.putMono (length_ditherFrame _ _ _)

theorem State.FrameInv.binarizeBody (h : s.FrameInv) : (binarizeBody s).FrameInv := by
  unfold Machine.binarizeBody
  split
  · exact h.binFsBody
  · exact h.binThrBody

theorem State.FrameInv.invertBody (h : s.FrameInv) : (invertBody s).FrameInv := h.putMono (by simp)

theorem State.FrameInv.step4 (h : s.FrameInv) : (step4 s).FrameInv := by
  unfold Machine.step4
  split
  · exact h.adjcBody
  · exact h

theorem State.FrameInv.step5 (h : s.FrameInv) : (step5 s).FrameInv := by
  unfold Machine.step5
  split
  · exact h.adjbBody
  · exact h

theorem State.FrameInv.step7 (h : s.FrameInv) : (step7 s).FrameInv := by
  unfold Machine.step7
  split
  · exact h.invertBody
  · exact h

theorem State.FrameInv.convertBody (h : s.FrameInv) : (convertBody s).FrameInv :=
  h.step4.step5.binarizeBody.step7.packBody

theorem State.FrameInv.patBody (h : s.FrameInv) (p : Nat → Nat → Nat → Nat → Bool) :
    (patBody p s).FrameInv :=
  (h.putMono (length_raster _ _ _)).packBody

theorem State.FrameInv.frameBody (h : s.FrameInv) (i : Instr) : (frameBody i s).Inv := by
  cases i with
  | nop | verify | reset => exact h.inv
  | pack => exact h.packBody.inv
  | unpack => exact h.unpackBody.inv
  | adjc => exact h.adjcBody.inv
  | adjb => exact h.adjbBody.inv
  | binThr => exact h.binThrBody.inv
  | binFs => exact h.binFsBody.inv
  | binarize => exact h.binarizeBody.inv
  | invert => exact h.invertBody.inv
  | convert => exact h.convertBody.inv.sizeCheck _ _
  | stream => exact h.inv.emit _
  | patWhite | patBlack | patChecker | patStripesH | patStripesV | patGradient | patBorder | patGrid
  | patSplit | patText => exact (h.patBody _).inv.sizeCheck _ _

end Bodies

/-! ## Commands, port moves and steps keep the invariant -/

section Moves

variable {s t : State}

theorem State.Inv.unlessFaulted (h : s.Inv) {body : State → State} (hb : (body s).Inv) :
    (unlessFaulted body s).Inv := by
  unfold Machine.unlessFaulted
  split
  · exact hb
  · exact h

theorem State.Inv.illegalCommand (h : s.Inv) (w : Word) : (illegalCommand w s).Inv :=
  h.unlessFaulted (h.raiseFault _ _)

theorem State.Inv.frameCommand (h : s.Inv) (i : Instr) (cmd : Word) :
    (frameCommand cmd (frameBody i) s).Inv := by
  rcases frameCommand_cases cmd (frameBody i) s with ⟨-, e⟩ | ⟨-, -, e⟩ | ⟨⟨-, hdims⟩, e⟩ <;> rw [e]
  · exact h
  · exact h.raiseFault _ _
  · exact State.FrameInv.frameBody ⟨h, hdims⟩ i

theorem State.Inv.exec (h : s.Inv) {i : Instr} (he : exec i s = .next t) : t.Inv := by
  cases hi : isFrame i with
  | true =>
    rw [exec_eq_frameCommand hi] at he
    cases he
    exact h.frameCommand i _
  | false =>
    obtain rfl | rfl | rfl := exec_nonframe hi
    · rw [exec_nop] at he
      cases he
      exact h
    · rw [exec_verify] at he
      cases he
      exact h.unlessFaulted (h.sizeCheck _ _)
    · rw [exec_reset] at he
      cases he
      exact h.recover

theorem State.Inv.answerReg (h : s.Inv) (v : Option Word) : (s.answerReg v).Inv := by
  cases v with
  | none => exact h.answer _
  | some v => exact h.answer _

theorem State.Inv.inRange (h : s.Inv) {n i : Nat} {ok : State → State} (hok : i < n → (ok s).Inv) :
    (s.inRange n i ok).Inv := by
  rcases inRange_cases n i ok s with ⟨hi, e⟩ | ⟨-, e⟩ <;> rw [e]
  · exact hok hi
  · exact h.answer _

theorem State.Inv.portMove (h : s.Inv) (m : HostMove) : (s.portMove m).Inv := by
  cases m with
  | rd r => exact h.answerReg _
  | wr r v => exact h.inRange fun _ => (h.setRegs _).answer _
  | ldG i | ldM i | ldP i => exact h.inRange fun _ => h.answer _
  | stG i v => exact h.inRange fun hi => (h.writeGray hi _).answer _
  | stM i v => exact h.inRange fun hi => (h.writeMono hi _).answer _
  | stP i v => exact h.inRange fun hi => (h.writePacked hi _).answer _
  | hardReset => exact h.hardReset.answer _
  | consume => exact h.takeAll.answer _

theorem State.Inv.step (h : s.Inv) (hstep : step s = .next t) : t.Inv := by
  rcases step_cases s with ⟨-, e⟩ | ⟨m, -, -, -, e⟩ | ⟨w, -, i, -, -, e⟩ | ⟨w, -, -, -, -, e⟩ <;>
    rw [e] at hstep
  · cases hstep
    exact h
  · cases hstep
    exact h.nextMove.portMove m
  · exact (h.nextMove.answer _).exec hstep
  · cases hstep
    exact (h.nextMove.answer _).illegalCommand w

end Moves

/-! ## The obligations -/

/-- Settles O55: the capacity 1600 × 1200 is in range, and a reset state of any such capacity lists no cell
and has emitted nothing. -/
theorem resetMeetsTheInvariant : Obligations.ResetMeetsTheInvariant :=
  ⟨State.Inv.resetOf (by decide), rfl, rfl⟩

/-- Settles O56, by the cases of a step: an access is checked against its space's range, and a frame command's
body runs with valid dimensions only, so that the active frame it writes fits its memory. -/
theorem everyStepKeepsTheInvariant : Obligations.EveryStepKeepsTheInvariant :=
  fun _ _ h hstep => h.step hstep

end Sys2Proof.Machine
end

section
/-! PROOFS. Rules shared by the proofs about single steps: a command has one word, and what the refusal while
faulted and the range check of a port can do. -/

namespace Sys2Proof.Machine

open Sys2Proof.Spec

/-! ## A command has one word -/

theorem decode_encode (i : Instr) : decode (encode i) = .ok i := by
  cases i <;> rfl

/-- The two lines of 30_encoding.md R61 by which a word is a command. -/
theorem decode_ok_cases {w : Word} {i : Instr} (h : decode w = .ok i) :
    rsvField w = 0 ∧
      ((opField w = patOp ∧ patternTable.lookup (patField w) = some i) ∨
        (patField w = 0 ∧ opTable.lookup (opField w) = some i)) := by
  unfold decode at h
  split at h
  · cases h
  next hrsv =>
    refine ⟨not_not.mp hrsv, ?_⟩
    split at h
    next hop =>
      split at h
      next hl => cases h; exact .inl ⟨hop, hl⟩
      next => cases h
    next =>
      split at h
      next => cases h
      next hl =>
        split at h
        · cases h
        next hpat => cases h; exact .inr ⟨not_not.mp hpat, hl⟩

/-- The tables of 30_encoding.md R62 and R63 list each command with the fields of its word. -/
theorem encodeFields_of_lookup_patternTable {p : BitVec 4} {i : Instr}
    (h : patternTable.lookup p = some i) : encodeFields i = (p, patOp) := by
  have table : ∀ e ∈ patternTable, encodeFields e.2 = (e.1, patOp) := by decide
  obtain ⟨before, after, hl, -⟩ := List.lookup_eq_some_iff.mp h
  exact table (p, i) (by simp [hl])

theorem encodeFields_of_lookup_opTable {o : Byte} {i : Instr} (h : opTable.lookup o = some i) :
    encodeFields i = (0, o) := by
  have table : ∀ e ∈ opTable, encodeFields e.2 = (0, e.1) := by decide
  obtain ⟨before, after, hl, -⟩ := List.lookup_eq_some_iff.mp h
  exact table (o, i) (by simp [hl])

/-- A word is made of its three fields (30_encoding.md R60). -/
theorem append_fields (w : Word) : rsvField w ++ patField w ++ opField w = w := by
  unfold rsvField patField opField
  rw [BitVec.extractLsb'_append_extractLsb'_eq_extractLsb' (by rfl),
    BitVec.extractLsb'_append_extractLsb'_eq_extractLsb' (by rfl)]
  exact BitVec.extractLsb'_eq_self

/-- A word that decodes to a command is that command's word (30_encoding.md R61). -/
theorem eq_encode_of_decode {w : Word} {i : Instr} (h : decode w = .ok i) : w = encode i := by
  obtain ⟨hrsv, hcases⟩ := decode_ok_cases h
  have hfields : encodeFields i = (patField w, opField w) := by
    rcases hcases with ⟨hop, hl⟩ | ⟨hpat, hl⟩
    · rw [hop, encodeFields_of_lookup_patternTable hl]
    · rw [hpat, encodeFields_of_lookup_opTable hl]
  rw [encode, hfields, ← hrsv, append_fields]

/-! ## The refusal while faulted, and the ports -/

/-- Everything the refusal while faulted can do (60_exceptions.md R160). -/
theorem unlessFaulted_cases (body : State → State) (s : State) :
    (s.regs.fault = .none ∧ unlessFaulted body s = body s) ∨
    (s.regs.fault ≠ .none ∧ unlessFaulted body s = s) := by
  by_cases hf : s.regs.fault = .none
  · exact .inl ⟨hf, unlessFaulted_of_none hf body⟩
  · exact .inr ⟨hf, unlessFaulted_of_fault hf body⟩

/-- What neither the access nor the error response touches, the range check keeps. -/
theorem State.inRange_kept {β : Type} (f : State → β) {n i : Nat} {ok : State → State} {s : State}
    (hok : f (ok s) = f s) (herror : f (s.answer .error) = f s) : f (s.inRange n i ok) = f s := by
  rcases inRange_cases n i ok s with ⟨-, e⟩ | ⟨-, e⟩ <;> rw [e]
  · exact hok
  · exact herror

@[simp] theorem State.answerReg_regs (s : State) (v : Option Word) : (s.answerReg v).regs = s.regs := by
  cases v <;> rfl

@[simp] theorem State.answerReg_out (s : State) (v : Option Word) : (s.answerReg v).out = s.out := by
  cases v <;> rfl

/-! ## The two kinds of host moves as steps -/

/-- A step with a move that is no CMD write performs it at the port. -/
theorem step_portMove (s : State) (rest : List HostMove) {m : HostMove} (h : commandWord? m = none) :
    step { s with script := m :: rest } = .next (State.portMove m { s with script := rest }) := by
  simp [step, h, State.nextMove]

theorem command_of_decode {w : Word} {i : Instr} (h : decode w = .ok i) (s : State) :
    command w s = exec i s := by
  unfold command
  rw [h]

/-- Settles O8: the step hands the word to `command`, which runs what it decodes to. -/
theorem stepRunsTheDecodedCommand : Obligations.StepRunsTheDecodedCommand :=
  fun s _ rest _ h => command_of_decode h (answered s rest .done)

end Sys2Proof.Machine
end

section
/-! PROOFS. The registers (10_state.md sections 3 and 6): what a reset leaves in them, what a host read answers
and what a host write stores. -/

namespace Sys2Proof.Machine

open Sys2Proof.Spec

/-! ## Reset values -/

theorem npack_lt_of_wf {p : Params} (h : p.wf) : p.npack < 2 ^ 32 := by
  obtain ⟨-, hw, -, hh⟩ := h
  calc p.npack ≤ 8192 * 65535 := Nat.mul_le_mul (by unfold bpr; omega) hh
    _ < 2 ^ 32 := by decide

theorem Regs.reset_resetRegs {p : Params} (h : p.wf) : ResetRegs p (Regs.reset p) := by
  have hlen := npack_lt_of_wf h
  obtain ⟨-, hw, -, hh⟩ := h
  exact ⟨rfl, rfl, rfl, rfl, Nat.mod_eq_of_lt (by omega), Nat.mod_eq_of_lt (by omega),
    Nat.mod_eq_of_lt hlen, rfl, rfl, rfl, rfl, rfl⟩

/-- Settles O1: the reset values fit their fields as long as the capacity is in range, and RESET writes the same
registers. -/
theorem resetValuesOfTheState : Obligations.ResetValuesOfTheState :=
  ⟨rfl, fun _ hp => ⟨Regs.reset_resetRegs hp, rfl, fun _ => ⟨rfl, rfl, rfl⟩⟩,
    fun s hp => ⟨s.recover, exec_reset s, Regs.reset_resetRegs hp, rfl⟩⟩

/-! ## The words of the registers -/

theorem Regs.toNat_status (r : Regs) :
    r.status.toNat = faultNumber r.fault + 16 * r.warnSize.toNat := by
  unfold Regs.status
  cases r.fault <;> cases r.warnSize <;> rfl

theorem Regs.toNat_mode (r : Regs) : r.mode.toNat = r.invert.toNat + 2 * r.dither.toNat := by
  unfold Regs.mode
  cases r.invert <;> cases r.dither <;> rfl

/-- 10_state.md R24: the largest value of PLEN, that of a 65,535 × 65,535 frame. -/
theorem State.plen_le (s : State) : s.plen ≤ 536862720 := by
  have hw : s.w < 65536 := s.regs.width.isLt
  have hh : s.h < 65536 := s.regs.height.isLt
  exact Nat.mul_le_mul (show bpr s.w ≤ 8192 by unfold bpr; omega) (show s.h ≤ 65535 by omega)

theorem State.toNat_plen (s : State) : (BitVec.ofNat 32 s.plen).toNat = s.plen :=
  Nat.mod_eq_of_lt (s.plen_le.trans_lt (by decide))

/-- Each of the twelve registers reads as the number its fields make. -/
theorem readReg_eq_regValue (s : State) {r : Nat} (hr : r < 12) :
    ∃ v, s.readReg r = some v ∧ v.toNat = regValue s r := by
  match r, hr with
  | 0, _ => exact ⟨_, rfl, (BitVec.toNat_setWidth_of_le (by decide)).trans (BitVec.toNat_ofBool _)⟩
  | 1, _ => exact ⟨_, rfl, s.regs.toNat_status⟩
  | 2, _ | 3, _ | 6, _ => exact ⟨_, rfl, rfl⟩
  | 4, _ | 5, _ | 8, _ | 9, _ | 10, _ => exact ⟨_, rfl, BitVec.toNat_setWidth_of_le (by decide)⟩
  | 7, _ => exact ⟨_, rfl, s.toNat_plen⟩
  | 11, _ => exact ⟨_, rfl, s.regs.toNat_mode⟩

theorem step_rd (s : State) (rest : List HostMove) {r : Nat} {v : Word} (h : s.readReg r = some v) :
    step { s with script := .rd r :: rest } = .next (answered s rest (.word v)) := by
  have hread : State.readReg { s with script := rest } r = some v := h
  rw [step_portMove s rest rfl, State.portMove, hread]
  rfl

/-- Settles O13: a read answers the register's word and touches the host's record only. -/
theorem registerReadAnswersFields : Obligations.RegisterReadAnswersFields := fun s rest _ hr =>
  have ⟨v, hread, hv⟩ := readReg_eq_regValue s hr
  ⟨v, step_rd s rest hread, hv⟩

/-! ## Writes -/

/-- A write of a register other than CMD is answered and touches the registers only. -/
theorem step_wr (s : State) (rest : List HostMove) {r : Nat} (v : Word) (hr : r < 12) (hcmd : r ≠ 3) :
    step { s with script := .wr r v :: rest } =
      .next { answered s rest .done with regs := s.regs.write r v } := by
  have hport : commandWord? (.wr r v) = none := if_neg hcmd
  have hrange : r < numRegs := hr
  rw [step_portMove s rest hport, State.portMove, State.inRange, if_pos hrange]
  rfl

/-- Settles O14: `BPR(W) × H` of two 16-bit fields fits the 32 bits of PLEN, and PLEN has no field to write. -/
theorem plenReadsTheComputedLength : Obligations.PlenReadsTheComputedLength := fun s rest =>
  ⟨⟨_, step_rd s rest rfl, s.toNat_plen, s.toNat_plen.trans_le s.plen_le⟩,
    fun x => step_wr s rest x (by decide) (by decide)⟩

section Write

variable (r : Regs) {n : Nat} (v : Word)

@[simp] theorem Regs.write_fault (n : Nat) : (r.write n v).fault = r.fault := by
  unfold Regs.write; split <;> rfl

@[simp] theorem Regs.write_faultInfo (n : Nat) : (r.write n v).faultInfo = r.faultInfo := by
  unfold Regs.write; split <;> rfl

theorem Regs.write_strict (h : n ≠ 0) : (r.write n v).strict = r.strict := by
  unfold Regs.write; split <;> trivial

theorem Regs.write_warnSize (h : n ≠ 1) : (r.write n v).warnSize = r.warnSize := by
  unfold Regs.write; split <;> trivial

theorem Regs.write_width (h : n ≠ 4) : (r.write n v).width = r.width := by
  unfold Regs.write; split <;> trivial

theorem Regs.write_height (h : n ≠ 5) : (r.write n v).height = r.height := by
  unfold Regs.write; split <;> trivial

theorem Regs.write_expLen (h : n ≠ 6) : (r.write n v).expLen = r.expLen := by
  unfold Regs.write; split <;> trivial

theorem Regs.write_threshold (h : n ≠ 8) : (r.write n v).threshold = r.threshold := by
  unfold Regs.write; split <;> trivial

theorem Regs.write_contrast (h : n ≠ 9) : (r.write n v).contrast = r.contrast := by
  unfold Regs.write; split <;> trivial

theorem Regs.write_bright (h : n ≠ 10) : (r.write n v).bright = r.bright := by
  unfold Regs.write; split <;> trivial

theorem Regs.write_mode (h : n ≠ 11) :
    (r.write n v).invert = r.invert ∧ (r.write n v).dither = r.dither := by
  unfold Regs.write; split <;> trivial

end Write

/-- Bit `i` of a word as a number. -/
theorem toNat_bit (v : Word) (i : Nat) : (v.getLsbD i).toNat = v.toNat / 2 ^ i % 2 :=
  Nat.toNat_testBit v.toNat i

theorem toNat_low (v : Word) (n : Nat) : (v.extractLsb' 0 n).toNat = v.toNat % 2 ^ n := by simp

section Stored

variable {s t : State} {v : Word}

/-- Every register but the written one and PLEN reads as before. -/
theorem regValue_write_other {r q : Nat} (ht : t.regs = s.regs.write r v) (hq : q < 12) (hqr : q ≠ r)
    (hlen : q ≠ 7) : regValue t q = regValue s q := by
  match q, hq with
  | 0, _ => simp only [regValue, ht, Regs.write_strict _ _ hqr.symm]
  | 1, _ => simp only [regValue, ht, Regs.write_fault, Regs.write_warnSize _ _ hqr.symm]
  | 2, _ => simp only [regValue, ht, Regs.write_faultInfo]
  | 3, _ => rfl
  | 4, _ => simp only [regValue, ht, Regs.write_width _ _ hqr.symm]
  | 5, _ => simp only [regValue, ht, Regs.write_height _ _ hqr.symm]
  | 6, _ => simp only [regValue, ht, Regs.write_expLen _ _ hqr.symm]
  | 7, _ => exact absurd rfl hlen
  | 8, _ => simp only [regValue, ht, Regs.write_threshold _ _ hqr.symm]
  | 9, _ => simp only [regValue, ht, Regs.write_contrast _ _ hqr.symm]
  | 10, _ => simp only [regValue, ht, Regs.write_bright _ _ hqr.symm]
  | 11, _ =>
    obtain ⟨hinvert, hdither⟩ := Regs.write_mode s.regs v hqr.symm
    simp only [regValue, ht, hinvert, hdither]

/-- The written register reads as the value's low bits, one field after the other; STATUS is cleared by a 1. -/
theorem regValue_write_same {r : Nat} (ht : t.regs = s.regs.write r v) (hr : r < 12) (hcmd : r ≠ 3) :
    regValue t r = regAfterWrite s v.toNat r := by
  match r, hr with
  | 0, _ => simp only [regValue, regAfterWrite, ht, Regs.write, toNat_bit, Nat.pow_zero, Nat.div_one]
  | 1, _ =>
    have hbit : (v.getLsbD 4).toNat = v.toNat / 16 % 2 := toNat_bit v 4
    simp only [regValue, regAfterWrite, ht, Regs.write, ← hbit]
    cases v.getLsbD 4 <;> simp
  | 2, _ => simp [regValue, regAfterWrite, ht]
  | 3, _ => exact absurd rfl hcmd
  | 4, _ | 5, _ | 8, _ | 9, _ | 10, _ =>
    simp only [regValue, regAfterWrite, ht, Regs.write, toNat_low, Nat.reducePow]
  | 6, _ | 7, _ => simp only [regValue, regAfterWrite, ht, Regs.write]
  | 11, _ =>
    have hinvert := toNat_bit v 0
    have hdither := toNat_bit v 1
    simp only [regValue, regAfterWrite, ht, Regs.write]
    omega

end Stored

/-- Settles O15: the write stores the written register's fields truncated, and every other field is kept. -/
theorem registerWriteStoresTruncatedFields : Obligations.RegisterWriteStoresTruncatedFields :=
  fun s rest _ v hr hcmd =>
    ⟨_, step_wr s rest v hr hcmd, rfl, Regs.write_fault _ _ _, Regs.write_faultInfo _ _ _,
      regValue_write_same rfl hr hcmd, fun _ hq hqr hlen => regValue_write_other rfl hq hqr hlen⟩

end Sys2Proof.Machine
end

section
/-! PROOFS. What a command and a step can do to the registers, said once; from it the fault record
(60_exceptions.md section 4) and the configuration (10_state.md R26). -/

namespace Sys2Proof.Machine

open Sys2Proof.Spec

/-! ## The fault record depends on STATUS.FAULT and FAULTINFO alone -/

theorem State.faultRecorded_congr {s t : State} (hf : t.regs.fault = s.regs.fault)
    (hi : t.regs.faultInfo = s.regs.faultInfo) : t.faultRecorded = s.faultRecorded := by
  unfold State.faultRecorded
  rw [hf, hi]

theorem State.faultRecorded_of_none {s : State} (hf : s.regs.fault = .none)
    (hi : s.regs.faultInfo = 0) : s.faultRecorded = true := by
  unfold State.faultRecorded
  rw [hf, hi]
  rfl

theorem State.faultRecorded_badDim (s : State) (i : Instr) :
    (s.raiseFault .badDim (encode i)).faultRecorded = isFrame i := by
  simp [State.faultRecorded, decode_encode]

theorem State.faultRecorded_sizeMismatch (s : State) (i : Instr) :
    (s.raiseFault .sizeMismatch (encode i)).faultRecorded = checksLength i := by
  simp [State.faultRecorded, decode_encode]

theorem State.faultRecorded_illegalCmd (s : State) {w : Word} {e : Illegal} (h : decode w = .error e) :
    (s.raiseFault .illegalCmd w).faultRecorded = true := by
  simp [State.faultRecorded, h]

/-- The step from `s` to `t` enters a fault that the command word `w` can raise (60_exceptions.md R159). -/
structure FaultEntry (w : Word) (s t : State) : Prop where
  before : s.regs.fault = .none
  after : t.regs.fault ≠ .none
  regs : t.regs = { s.regs with fault := t.regs.fault, faultInfo := w }
  recorded : t.faultRecorded = true

theorem FaultEntry.raiseFault {s : State} {c : FaultCode} {w : Word} (hf : s.regs.fault = .none)
    (hc : c ≠ .none) (hr : (s.raiseFault c w).faultRecorded = true) :
    FaultEntry w s (s.raiseFault c w) :=
  ⟨hf, hc, rfl, hr⟩

/-! ## What a command can do to the registers -/

/-- Everything the command word `w` can do to the registers: nothing, the warning, a fault entry, and, if it is
the word of RESET, the reset values. -/
inductive CommandRegs (w : Word) (s t : State) : Prop where
  | kept (h : t.regs = s.regs)
  | warned (h : t.regs = { s.regs with warnSize := true })
  | entered (h : FaultEntry w s t)
  | reset (hw : w = encode .reset) (h : t.regs = Regs.reset s.params)

/-- Of the state before, only registers and parameters matter. -/
theorem CommandRegs.congr {w : Word} {s u t : State} (h : CommandRegs w u t) (hr : u.regs = s.regs)
    (hp : u.params = s.params) : CommandRegs w s t := by
  cases h with
  | kept h => exact .kept (h.trans hr)
  | warned h => exact .warned (hr ▸ h)
  | entered h => exact .entered ⟨hr ▸ h.before, h.after, hr ▸ h.regs, h.recorded⟩
  | reset hw h => exact .reset hw (hp ▸ h)

theorem sizeCheck_commandRegs {i : Instr} (hi : checksLength i = true) {s : State}
    (hf : s.regs.fault = .none) (kind : CheckKind) :
    CommandRegs (encode i) s (s.sizeCheck kind (encode i)) := by
  rcases sizeCheck_cases kind (encode i) s with ⟨-, e⟩ | ⟨-, -, e⟩ | ⟨-, -, -, e⟩ <;> rw [e]
  · exact .kept rfl
  · exact .entered (.raiseFault hf nofun ((State.faultRecorded_sizeMismatch s i).trans hi))
  · exact .warned rfl

theorem frameBody_commandRegs (i : Instr) {s : State} (hf : s.regs.fault = .none) :
    CommandRegs (encode i) s (frameBody i s) := by
  have pattern : ∀ {j : Instr}, checksLength j = true → ∀ p,
      CommandRegs (encode j) s ((patBody p s).sizeCheck .pattern (encode j)) :=
    fun hj p => (sizeCheck_commandRegs hj (s := patBody p s) hf .pattern).congr rfl rfl
  cases i with
  | nop | verify | reset | pack | unpack | adjc | adjb | binThr | binFs | invert | stream =>
    exact .kept rfl
  | binarize => exact .kept (binarizeBody_regs s)
  | convert =>
    have hregs := convertBody_regs s
    exact (sizeCheck_commandRegs (i := .convert) rfl (by rw [hregs, hf]) .converter).congr hregs
      (convertBody_keeps s).params
  | patWhite | patBlack | patChecker | patStripesH | patStripesV | patGradient | patBorder | patGrid
  | patSplit | patText => exact pattern rfl _

theorem unlessFaulted_commandRegs {w : Word} {s : State} {body : State → State}
    (h : s.regs.fault = .none → CommandRegs w s (body s)) :
    CommandRegs w s (unlessFaulted body s) := by
  rcases unlessFaulted_cases body s with ⟨hf, e⟩ | ⟨-, e⟩ <;> rw [e]
  · exact h hf
  · exact .kept rfl

theorem illegalCommand_commandRegs {w : Word} {e : Illegal} (h : decode w = .error e) (s : State) :
    CommandRegs w s (illegalCommand w s) :=
  unlessFaulted_commandRegs fun hf =>
    .entered (.raiseFault hf nofun (State.faultRecorded_illegalCmd s h))

theorem exec_commandRegs {i : Instr} {s t : State} (he : exec i s = .next t) :
    CommandRegs (encode i) s t := by
  cases hi : isFrame i with
  | true =>
    rw [exec_eq_frameCommand hi] at he
    cases he
    rcases frameCommand_cases (encode i) (frameBody i) s with ⟨-, e⟩ | ⟨hf, -, e⟩ | ⟨⟨hf, -⟩, e⟩ <;>
      rw [e]
    · exact .kept rfl
    · exact .entered (.raiseFault hf nofun ((State.faultRecorded_badDim s i).trans hi))
    · exact frameBody_commandRegs i hf
  | false =>
    obtain rfl | rfl | rfl := exec_nonframe hi
    · rw [exec_nop] at he
      cases he
      exact .kept rfl
    · rw [exec_verify] at he
      cases he
      exact unlessFaulted_commandRegs fun hf => sizeCheck_commandRegs rfl hf _
    · rw [exec_reset] at he
      cases he
      exact .reset rfl rfl

/-! ## What a port move and a step can do to the registers -/

/-- Everything a port move can do to the registers. -/
theorem portMove_regs_cases (m : HostMove) (s : State) :
    (s.portMove m).regs = s.regs ∨
    (∃ r v, m = .wr r v ∧ (s.portMove m).regs = s.regs.write r v) ∨
    (m = .hardReset ∧ (s.portMove m).regs = Regs.reset s.params) := by
  cases m with
  | rd r => exact .inl (s.answerReg_regs _)
  | wr r v =>
    have access := inRange_cases numRegs r fun s => { s with regs := s.regs.write r v }.answer .done
    rcases access s with ⟨-, e⟩ | ⟨-, e⟩
    · exact .inr (.inl ⟨r, v, rfl, congrArg State.regs e⟩)
    · exact .inl ((congrArg State.regs e).trans (s.answer_regs _))
  | ldG i | ldM i | ldP i | stG i v | stM i v | stP i v =>
    exact .inl (State.inRange_kept State.regs rfl rfl)
  | hardReset => exact .inr (.inr ⟨rfl, rfl⟩)
  | consume => exact .inl rfl

/-- Everything a step can do to the registers. -/
inductive StepRegs (s t : State) : Prop where
  | kept (h : t.regs = s.regs)
  | written {r : Nat} {v : Word} {rest : List HostMove} (hr : r ≠ 3) (hs : s.script = .wr r v :: rest)
      (h : t.regs = s.regs.write r v)
  | hardReset {rest : List HostMove} (hs : s.script = .hardReset :: rest)
      (h : t.regs = Regs.reset s.params)
  | command {w : Word} {rest : List HostMove} (hs : s.script = .wr 3 w :: rest)
      (h : CommandRegs w s t)

theorem step_regs {s t : State} (hstep : step s = .next t) : StepRegs s t := by
  rcases step_cases s with ⟨-, e⟩ | ⟨m, rest, hs, hm, e⟩ | ⟨w, rest, i, hs, hd, e⟩ |
    ⟨w, rest, _, hs, hd, e⟩ <;> rw [e] at hstep
  · cases hstep
    exact .kept rfl
  · cases hstep
    rcases portMove_regs_cases m s.nextMove with h | ⟨r, v, rfl, h⟩ | ⟨rfl, h⟩
    · exact .kept h
    · refine .written (fun hr => ?_) hs h
      subst hr
      cases hm
    · exact .hardReset hs h
  · rw [eq_encode_of_decode hd] at hs
    exact .command hs ((exec_commandRegs hstep).congr rfl rfl)
  · cases hstep
    exact .command hs ((illegalCommand_commandRegs hd _).congr rfl rfl)

/-- Everything a step can do to STATUS.FAULT and FAULTINFO: keep both, enter a fault by a CMD write, or clear
both by a reset. -/
theorem step_fault_cases {s t : State} (hstep : step s = .next t) :
    (t.regs.fault = s.regs.fault ∧ t.regs.faultInfo = s.regs.faultInfo) ∨
    (∃ w rest, s.script = .wr 3 w :: rest ∧ FaultEntry w s t) ∨
    (t.regs.fault = .none ∧ t.regs.faultInfo = 0 ∧
      ((∃ rest, s.script = .hardReset :: rest) ∨ ∃ rest, s.script = .wr 3 0x0000007F :: rest)) := by
  cases step_regs hstep with
  | kept h => exact .inl ⟨by rw [h], by rw [h]⟩
  | written _ _ h => exact .inl ⟨by rw [h, Regs.write_fault], by rw [h, Regs.write_faultInfo]⟩
  | hardReset hs h => exact .inr (.inr ⟨by rw [h]; rfl, by rw [h]; rfl, .inl ⟨_, hs⟩⟩)
  | command hs h =>
    cases h with
    | kept h => exact .inl ⟨by rw [h], by rw [h]⟩
    | warned h => exact .inl ⟨by rw [h], by rw [h]⟩
    | entered h => exact .inr (.inl ⟨_, _, hs, h⟩)
    | reset hw h =>
      subst hw
      exact .inr (.inr ⟨by rw [h]; rfl, by rw [h]; rfl, .inr ⟨_, hs⟩⟩)

/-! ## The obligations about the fault record and the configuration -/

/-- Settles O58, by what a step can do to STATUS.FAULT and FAULTINFO: a fault entry records a word that can
raise it, and nothing else but a reset touches either. -/
theorem everyStepKeepsTheFaultRecord : Obligations.EveryStepKeepsTheFaultRecord := by
  intro s t hs hstep
  rcases step_fault_cases hstep with ⟨hf, hi⟩ | ⟨_, _, -, entry⟩ | ⟨hf, hi, -⟩
  · rw [State.faultRecorded_congr hf hi, hs]
  · exact entry.recorded
  · exact State.faultRecorded_of_none hf hi

/-- Settles O57: the reset values are no fault and FAULTINFO 0. -/
theorem resetRecordsNoFault : Obligations.ResetRecordsNoFault :=
  ⟨rfl, rfl, State.faultRecorded_of_none rfl rfl⟩

/-- Settles O52, by what a step can do to STATUS.FAULT and FAULTINFO: an entry is a CMD write from no fault, and
only a reset clears. -/
theorem faultStaysUntilReset : Obligations.FaultStaysUntilReset := by
  intro s t hstep
  rcases step_fault_cases hstep with ⟨hf, hi⟩ | ⟨w, rest, hs, entry⟩ | ⟨hf, -, hreset⟩
  · exact ⟨fun hnone hfault => absurd (hf.trans hnone) hfault, fun _ => .inl ⟨hf, hi⟩⟩
  · have info : t.regs.faultInfo = w := by rw [entry.regs]
    exact ⟨fun _ _ => ⟨rest, by rw [hs, info]⟩, fun hfault => absurd entry.before hfault⟩
  · exact ⟨fun _ hfault => absurd hf hfault, fun _ => .inr ⟨hf, hreset⟩⟩

/-- Settles O51: of what a step can do to the registers, a warning and a fault entry write STATUS and FAULTINFO
only, so what is left is a register write and a reset. -/
theorem onlyHostWritesAndResetsConfigure : Obligations.OnlyHostWritesAndResetsConfigure := by
  intro s t hstep hconfig
  cases step_regs hstep with
  | kept h => exact absurd (by rw [config, h]; rfl) hconfig
  | written hr hs _ => exact .inl ⟨_, _, _, hr, hs⟩
  | hardReset hs _ => exact .inr (.inl ⟨_, hs⟩)
  | command hs h =>
    cases h with
    | kept h => exact absurd (by rw [config, h]; rfl) hconfig
    | warned h => exact absurd (by rw [config, h]; rfl) hconfig
    | entered h => exact absurd (by rw [config, h.regs]; rfl) hconfig
    | reset hw _ =>
      subst hw
      exact .inr (.inr ⟨_, hs⟩)

end Sys2Proof.Machine
end

section
/-! PROOFS. The active area (10_state.md section 4): different pixels and bytes have different cells inside the
memories, a command writes no cell outside it, and STREAM alone emits. -/

namespace Sys2Proof.Machine

open Sys2Proof.Spec

/-! ## Cells of pixels and bytes -/

theorem px_inj {w x y x' y' : Nat} (hx : x < w) (hx' : x' < w) (h : px w x y = px w x' y') :
    x = x' ∧ y = y' :=
  ⟨by rw [← px_mod hx, h, px_mod hx'], by rw [← px_div (y := y) hx, h, px_div hx']⟩

/-- Settles O24: `px` and `bx` number the cells row by row, so each is below rows × row length, and the row and
the column are the quotient and the remainder. -/
theorem activeCellsFitAndAreDistinct : Obligations.ActiveCellsFitAndAreDistinct := fun _ hdims =>
  ⟨State.plen_le_npack hdims,
    fun _ _ hx hy => ⟨px_lt hx hy, (px_lt hx hy).trans_le (State.active_le_npix hdims)⟩,
    fun _ _ _ _ hx hx' h => px_inj hx hx' h,
    fun _ _ hc hy => bx_lt hc hy,
    fun _ _ _ _ hc hc' h => px_inj hc hc' h⟩

/-! ## What a body draws -/

/-- From `s` to `t` only active cells of the frame memories were drawn: the cells outside the active area read as
before (10_state.md R31), and nothing was emitted. -/
structure DrawsActive (s t : State) : Prop where
  gray : ∀ k, s.w * s.h ≤ k → t.grayAt k = s.grayAt k
  mono : MonoKeptOutside s t
  packed : PackedKeptOutside s t
  out : t.out = s.out

section Draw

variable {s t u : State}

theorem DrawsActive.refl (s : State) : DrawsActive s s :=
  ⟨fun _ _ => rfl, fun _ _ => rfl, fun _ _ => rfl, rfl⟩

/-- One drawing after another, the registers being kept, so that the active area is the same. -/
theorem DrawsActive.trans (h : DrawsActive s t) (hr : t.regs = s.regs) (k : DrawsActive t u) :
    DrawsActive s u where
  gray i hi := (k.gray i (by rwa [State.w_congr hr, State.h_congr hr])).trans (h.gray i hi)
  mono i hi := (k.mono i (by rwa [State.w_congr hr, State.h_congr hr])).trans (h.mono i hi)
  packed i hi := (k.packed i (by rwa [State.plen_congr hr])).trans (h.packed i hi)
  out := k.out.trans h.out

/-- New registers draw nothing. -/
theorem DrawsActive.setRegs (h : DrawsActive s t) (r : Regs) : DrawsActive s { t with regs := r } :=
  ⟨h.gray, h.mono, h.packed, h.out⟩

theorem DrawsActive.sizeCheck (h : DrawsActive s t) (kind : CheckKind) (cmd : Word) :
    DrawsActive s (t.sizeCheck kind cmd) := by
  rw [sizeCheck_eq_regs]
  exact h.setRegs _

theorem DrawsActive.putGray {vs : List Byte} (hv : vs.length = s.w * s.h) :
    DrawsActive s (s.putGray vs) where
  gray k hk := by rw [State.grayAt_putGray, dif_neg (by omega)]
  mono _ _ := rfl
  packed _ _ := rfl
  out := rfl

theorem DrawsActive.putMono {vs : List Bool} (hv : vs.length = s.w * s.h) :
    DrawsActive s (s.putMono vs) where
  gray _ _ := rfl
  mono k hk := by rw [State.monoAt_putMono, dif_neg (by omega)]
  packed _ _ := rfl
  out := rfl

theorem DrawsActive.putPacked {vs : List Byte} (hv : vs.length = s.plen) :
    DrawsActive s (s.putPacked vs) where
  gray _ _ := rfl
  mono _ _ := rfl
  packed k hk := by rw [State.packedAt_putPacked, dif_neg (by omega)]
  out := rfl

end Draw

section Bodies

variable (s : State)

theorem packBody_draws : DrawsActive s (packBody s) := .putPacked (length_packedForm _ _ _)

theorem unpackBody_draws : DrawsActive s (unpackBody s) := .putMono (length_raster _ _ _)

theorem adjcBody_draws : DrawsActive s (adjcBody s) := .putGray (by simp)

theorem adjbBody_draws : DrawsActive s (adjbBody s) := .putGray (by simp)

theorem binThrBody_draws : DrawsActive s (binThrBody s) := .putMono (by simp)

theorem binFsBody_draws : DrawsActive s (binFsBody s) := .putMono (length_ditherFrame _ _ _)

theorem invertBody_draws : DrawsActive s (invertBody s) := .putMono (by simp)

theorem binarizeBody_draws : DrawsActive s (binarizeBody s) := by
  unfold binarizeBody
  split
  · exact binFsBody_draws s
  · exact binThrBody_draws s

theorem step4_draws : DrawsActive s (step4 s) := by
  unfold step4
  split
  · exact adjcBody_draws s
  · exact .refl s

theorem step5_draws : DrawsActive s (step5 s) := by
  unfold step5
  split
  · exact adjbBody_draws s
  · exact .refl s

theorem step7_draws : DrawsActive s (step7 s) := by
  unfold step7
  split
  · exact invertBody_draws s
  · exact .refl s

theorem convertBody_draws : DrawsActive s (convertBody s) :=
  (step4_draws s).trans (step4_regs s) <| (step5_draws _).trans (step5_regs _) <|
    (binarizeBody_draws _).trans (binarizeBody_regs _) <| (step7_draws _).trans (step7_regs _) <|
      packBody_draws _

theorem patBody_draws (p : Nat → Nat → Nat → Nat → Bool) : DrawsActive s (patBody p s) :=
  (DrawsActive.putMono (length_raster _ _ _)).trans rfl (packBody_draws _)

theorem frameBody_draws {i : Instr} (hi : i ≠ .stream) : DrawsActive s (frameBody i s) := by
  cases i with
  | nop | verify | reset => exact .refl s
  | pack => exact packBody_draws s
  | unpack => exact unpackBody_draws s
  | adjc => exact adjcBody_draws s
  | adjb => exact adjbBody_draws s
  | binThr => exact binThrBody_draws s
  | binFs => exact binFsBody_draws s
  | binarize => exact binarizeBody_draws s
  | invert => exact invertBody_draws s
  | convert => exact (convertBody_draws s).sizeCheck .converter _
  | stream => exact absurd rfl hi
  | patWhite | patBlack | patChecker | patStripesH | patStripesV | patGradient | patBorder | patGrid
  | patSplit | patText => exact (patBody_draws s _).sizeCheck .pattern _

end Bodies

/-! ## What a command and a step can draw and emit -/

/-- A command draws active cells, or is a STREAM that emits the packed frame. -/
theorem exec_draws_or_emits {i : Instr} {s t : State} (he : exec i s = .next t) :
    DrawsActive s t ∨ (i = .stream ∧ s.ready ∧ t = s.emit s.packedFrame) := by
  cases hi : isFrame i with
  | true =>
    rw [exec_eq_frameCommand hi] at he
    cases he
    rcases frameCommand_cases (encode i) (frameBody i) s with ⟨-, e⟩ | ⟨-, -, e⟩ | ⟨hready, e⟩ <;>
      rw [e]
    · exact .inl (.refl s)
    · exact .inl ((DrawsActive.refl s).setRegs _)
    · by_cases hstream : i = .stream
      · subst hstream
        exact .inr ⟨rfl, hready, rfl⟩
      · exact .inl (frameBody_draws s hstream)
  | false =>
    left
    obtain rfl | rfl | rfl := exec_nonframe hi
    · rw [exec_nop] at he
      cases he
      exact .refl s
    · rw [exec_verify] at he
      cases he
      rcases unlessFaulted_cases (State.sizeCheck .converter (encode .verify)) s with ⟨-, e⟩ | ⟨-, e⟩ <;>
        rw [e]
      · exact (DrawsActive.refl s).sizeCheck _ _
      · exact .refl s
    · rw [exec_reset] at he
      cases he
      exact (DrawsActive.refl s).setRegs _

theorem illegalCommand_out (w : Word) (s : State) : (illegalCommand w s).out = s.out := by
  unfold illegalCommand
  rcases unlessFaulted_cases (State.raiseFault · .illegalCmd w) s with ⟨-, e⟩ | ⟨-, e⟩ <;> simp [e]

/-- A port move keeps OUT, or is a hardware reset and empties it. -/
theorem portMove_out_cases (m : HostMove) (s : State) :
    (s.portMove m).out = s.out ∨ (m = .hardReset ∧ (s.portMove m).out = []) := by
  cases m with
  | rd r => exact .inl (s.answerReg_out _)
  | wr r v | ldG i | ldM i | ldP i | stG i v | stM i v | stP i v =>
    exact .inl (State.inRange_kept State.out rfl rfl)
  | hardReset => exact .inr ⟨rfl, rfl⟩
  | consume => exact .inl rfl

/-! ## The obligations about inactive cells and OUT -/

/-- Settles O54: a command draws active cells only, and STREAM, which emits, draws none. -/
theorem commandsKeepInactiveCells : Obligations.CommandsKeepInactiveCells := by
  intro i s t he
  rcases exec_draws_or_emits he with draws | ⟨-, -, rfl⟩
  · exact ⟨fun k hk => ⟨draws.gray k hk, draws.mono k hk⟩, draws.packed⟩
  · exact ⟨fun _ _ => ⟨rfl, rfl⟩, fun _ _ => rfl⟩

/-- Settles O53, by the cases of a step: a port move keeps OUT or resets, a command draws or is a STREAM in a
ready state, an illegal word emits nothing. -/
theorem onlyStreamEmits : Obligations.OnlyStreamEmits := by
  intro s t hstep
  rcases step_cases s with ⟨-, e⟩ | ⟨m, rest, hs, -, e⟩ | ⟨w, rest, i, hs, hd, e⟩ | ⟨w, -, -, -, -, e⟩ <;>
    rw [e] at hstep
  · cases hstep
    exact .inl rfl
  · cases hstep
    rcases portMove_out_cases m s.nextMove with h | ⟨rfl, h⟩
    · exact .inl h
    · exact .inr (.inr ⟨⟨rest, hs⟩, h⟩)
  · rcases exec_draws_or_emits hstep with draws | ⟨rfl, hready, rfl⟩
    · exact .inl draws.out
    · rw [eq_encode_of_decode hd] at hs
      exact .inr (.inl ⟨hready, ⟨rest, hs⟩, congrArg (s.out ++ ·) (State.packedFrame_eq s)⟩)
  · cases hstep
    exact .inl (illegalCommand_out w _)

end Sys2Proof.Machine
end

section
/-! PROOFS. The host's view of the memories (20_memory.md section 1): idle steps, loads and stores of cells, the error
response, and the reception of OUT. -/

namespace Sys2Proof.Machine

open Sys2Proof.Spec

/-! ## Steps that always have a next state -/

/-- Settles O11: the first case of a step is the empty script. -/
theorem stepWithoutMoveIsIdle : Obligations.StepWithoutMoveIsIdle := by
  intro s hs
  unfold step
  rw [hs]

/-- Settles O12: each case of a step, and each command, answers a next state. -/
theorem noStepAndNoCommandStops : Obligations.NoStepAndNoCommandStops := ⟨step_next, exec_next⟩

/-! ## Accesses in range (20_memory.md R42, R43) -/

section Access

variable (s : State) (rest : List HostMove) {i : Nat} (v : Word)

theorem step_of_portMove_eq {m : HostMove} {t : State} (hm : commandWord? m = none)
    (hport : State.portMove m { s with script := rest } = t) :
    step { s with script := m :: rest } = .next t := by
  rw [step_portMove s rest hm, hport]

theorem step_stG (hi : i < s.params.npix) :
    step { s with script := .stG i v :: rest } =
      .next ((answered s rest .done).writeGray i (v.extractLsb' 0 8)) :=
  step_of_portMove_eq s rest rfl (if_pos hi)

theorem step_stM (hi : i < s.params.npix) :
    step { s with script := .stM i v :: rest } =
      .next ((answered s rest .done).writeMono i (v.getLsbD 0)) :=
  step_of_portMove_eq s rest rfl (if_pos hi)

theorem step_stP (hi : i < s.params.npack) :
    step { s with script := .stP i v :: rest } =
      .next ((answered s rest .done).writePacked i (v.extractLsb' 0 8)) :=
  step_of_portMove_eq s rest rfl (if_pos hi)

theorem step_ldG (hi : i < s.params.npix) :
    step { s with script := .ldG i :: rest } = .next (answered s rest (.byte (s.grayAt i))) :=
  step_of_portMove_eq s rest rfl (if_pos hi)

theorem step_ldM (hi : i < s.params.npix) :
    step { s with script := .ldM i :: rest } = .next (answered s rest (.bit (s.monoAt i))) :=
  step_of_portMove_eq s rest rfl (if_pos hi)

theorem step_ldP (hi : i < s.params.npack) :
    step { s with script := .ldP i :: rest } = .next (answered s rest (.byte (s.packedAt i))) :=
  step_of_portMove_eq s rest rfl (if_pos hi)

theorem step_consume :
    step { s with script := .consume :: rest } =
      .next { answered s rest (.bytes (s.out.drop s.taken)) with taken := s.out.length } :=
  step_of_portMove_eq s rest rfl rfl

end Access

/-- The low byte of a word, the value truncated to a cell of GRAY or PACKED. -/
theorem extractLsb'_low_byte (v : Word) : v.extractLsb' 0 8 = BitVec.ofNat 8 (v.toNat % 256) :=
  BitVec.eq_of_toNat_eq ((toNat_low v 8).trans (Nat.mod_mod _ _).symm)

/-- The low bit of a word, the value truncated to a cell of MONO. -/
theorem getLsbD_zero_eq_odd (v : Word) : v.getLsbD 0 = decide (v.toNat % 2 = 1) :=
  Nat.testBit_zero v.toNat

/-- Settles O16: in range a store is one write of its memory with the truncated value, a load reads and answers. -/
theorem cellStoreAndLoad : Obligations.CellStoreAndLoad := by
  intro s rest i v
  rw [← extractLsb'_low_byte, ← getLsbD_zero_eq_odd]
  exact ⟨fun hi =>
      ⟨⟨_, step_stG s rest v hi, rfl, State.grayAt_writeGray _ i _⟩,
        ⟨_, step_stM s rest v hi, rfl, State.monoAt_writeMono _ i _⟩,
        step_ldG s rest hi, step_ldM s rest hi⟩,
    fun hi =>
      ⟨⟨_, step_stP s rest v hi, rfl, State.packedAt_writePacked _ i _⟩, step_ldP s rest hi⟩⟩

/-! ## Accesses out of range (20_memory.md R44) -/

theorem readReg_eq_none (s : State) {r : Nat} (h : 12 ≤ r) : s.readReg r = none := by
  obtain ⟨k, rfl⟩ := Nat.exists_eq_add_of_le' h
  rfl

/-- The error response of R44, for every move whose number or index lies outside its space. -/
theorem portMove_of_not_wf {m : HostMove} {s : State} (h : m.wf s.params = false) :
    s.portMove m = s.answer .error := by
  cases m with
  | rd r =>
    have hnone : s.readReg r = none := readReg_eq_none s (Nat.not_lt.mp (of_decide_eq_false h))
    rw [State.portMove, hnone, State.answerReg]
  | wr r v | ldG i | ldM i | ldP i | stG i v | stM i v | stP i v =>
    exact if_neg (of_decide_eq_false h)
  | hardReset | consume => cases h

/-- CMD exists, so a move out of range is no command. -/
theorem commandWord?_of_not_wf {p : Params} {m : HostMove} (h : m.wf p = false) :
    commandWord? m = none := by
  cases m with
  | wr r v =>
    have hr : ¬ r < 12 := of_decide_eq_false h
    exact if_neg (by unfold cmdReg; omega)
  | _ => rfl

theorem step_of_not_wf (s : State) (rest : List HostMove) {m : HostMove} (h : m.wf s.params = false) :
    step { s with script := m :: rest } = .next (answered s rest .error) :=
  step_of_portMove_eq s rest (commandWord?_of_not_wf h) (portMove_of_not_wf h)

/-- Settles O17: each of the eight moves is ill-formed from the end of its space on. -/
theorem accessOutOfRangeIsAnError : Obligations.AccessOutOfRangeIsAnError := by
  intro s rest i v
  have outside {n : Nat} (h : n ≤ i) : decide (i < n) = false := decide_eq_false (Nat.not_lt.mpr h)
  exact ⟨fun h => ⟨step_of_not_wf s rest (outside h), step_of_not_wf s rest (outside h)⟩,
    fun h => ⟨step_of_not_wf s rest (outside h), step_of_not_wf s rest (outside h),
      step_of_not_wf s rest (outside h), step_of_not_wf s rest (outside h)⟩,
    fun h => ⟨step_of_not_wf s rest (outside h), step_of_not_wf s rest (outside h)⟩⟩

/-! ## The reception of OUT (20_memory.md R41) -/

/-- Settles O18: OUT without the bytes already received is the new bytes. -/
theorem consumeDeliversTheNewBytes : Obligations.ConsumeDeliversTheNewBytes := by
  intro s rest old new hout htaken
  have hnew : s.out.drop s.taken = new := by rw [hout, htaken, List.drop_left]
  rw [step_consume, hnew]

end Sys2Proof.Machine
end

section
/-! PROOFS. The decoder and the encoder (30_encoding.md R60 to R63): an equation for each line of the decoding
rule, and the decoder's tables in the numbers of the fields. -/

namespace Sys2Proof.Machine

/-! ## A word decodes to a command exactly when it is that command's word -/

/-- Settles O7: each command's word decodes to it, and the two lines of R61 that answer a command fix all three
fields of the word. -/
theorem decodeInvertsEncodeExactly : Obligations.DecodeInvertsEncodeExactly := by
  intro w i
  constructor
  · exact eq_encode_of_decode
  · rintro rfl
    exact decode_encode i

/-! ## The fields as numbers (30_encoding.md R60) -/

theorem toNat_opField (w : Word) : (opField w).toNat = w.toNat % 256 :=
  BitVec.extractLsb'_toNat ..

theorem toNat_patField (w : Word) : (patField w).toNat = w.toNat / 256 % 16 := by
  rw [patField, BitVec.extractLsb'_toNat, Nat.shiftRight_eq_div_pow]

theorem toNat_rsvField (w : Word) : (rsvField w).toNat = w.toNat / 4096 := by
  have hw : w.toNat < 2 ^ 32 := w.isLt
  rw [rsvField, BitVec.extractLsb'_toNat, Nat.shiftRight_eq_div_pow]
  exact Nat.mod_eq_of_lt (by omega)

theorem rsvField_eq_zero_iff (w : Word) : rsvField w = 0 ↔ w.toNat / 4096 = 0 := by
  rw [← toNat_rsvField]
  exact BitVec.toNat_inj.symm

/-- With `rsv` 0, `pat` is all of the word above `op`. -/
theorem toNat_patField_of_rsv {w : Word} (h : w.toNat / 4096 = 0) :
    (patField w).toNat = w.toNat / 256 := by
  rw [toNat_patField]
  omega

/-! ## The lines of the decoding rule (30_encoding.md R61) -/

section Lines

variable {w : Word}

theorem decode_of_rsvField_ne_zero (h : rsvField w ≠ 0) : decode w = .error .reservedBits :=
  if_pos h

theorem decode_of_lookup_opTable_eq_none (hrsv : rsvField w = 0) (hop : opField w ≠ patOp)
    (hl : opTable.lookup (opField w) = none) : decode w = .error .unknownOp := by
  rw [decode, if_neg (not_not.mpr hrsv), if_neg hop, hl]

theorem decode_of_opField_eq_patOp (hrsv : rsvField w = 0) (hop : opField w = patOp) :
    decode w = (patternTable.lookup (patField w)).elim (.error .unknownPattern) .ok := by
  rw [decode, if_neg (not_not.mpr hrsv), if_pos hop]
  cases patternTable.lookup (patField w) <;> rfl

theorem ne_patOp_of_lookup_opTable {o : Byte} {i : Instr} (h : opTable.lookup o = some i) : o ≠ patOp := by
  rintro rfl
  cases h

theorem decode_of_lookup_opTable_eq_some {i : Instr} (hrsv : rsvField w = 0)
    (hl : opTable.lookup (opField w) = some i) :
    decode w = if patField w ≠ 0 then .error .patternNotZero else .ok i := by
  rw [decode, if_neg (not_not.mpr hrsv), if_neg (ne_patOp_of_lookup_opTable hl), hl]

end Lines

/-! ## The tables by their numbers (30_encoding.md R62, R63) -/

/-- The commands other than PAT with their `op` values as numbers. -/
def opNumbers : List (Nat × Instr) := opTable.map fun e => (e.1.toNat, e.2)

/-- The `op` values that a command has: that of PAT and those of the table. -/
def opValues : List Nat := patOp.toNat :: opNumbers.map Prod.fst

theorem opValues_perm : opValues.Perm [0x00, 0x01, 0x02, 0x10, 0x11, 0x12, 0x13, 0x14, 0x15, 0x20, 0x21, 0x22,
    0x30, 0x7F] := by decide

theorem lookup_opTable_eq_none {o : Byte} (h : o.toNat ∉ opNumbers.map Prod.fst) : opTable.lookup o = none := by
  rw [List.lookup_eq_none_iff]
  intro e he
  have hne : o ≠ e.1 := by
    rintro rfl
    exact h (List.mem_map_of_mem (List.mem_map_of_mem he))
  simpa using hne

theorem decode_of_op_not_mem_opValues {w : Word} (hrsv : rsvField w = 0)
    (h : (opField w).toNat ∉ opValues) : decode w = .error .unknownOp := by
  obtain ⟨hpat, htable⟩ := not_or.mp (mt List.mem_cons.mpr h)
  exact decode_of_lookup_opTable_eq_none hrsv (mt (congrArg BitVec.toNat) hpat) (lookup_opTable_eq_none htable)

/-- No `op` value stands twice in the table. -/
theorem lookup_opTable_eq_some {o : Byte} {i : Instr} (h : (o.toNat, i) ∈ opNumbers) :
    opTable.lookup o = some i := by
  have table : ∀ e ∈ opTable, opTable.lookup e.1 = some e.2 := by decide
  obtain ⟨e, he, heq⟩ := List.mem_map.mp h
  obtain ⟨hop, rfl⟩ := Prod.mk.inj heq
  rw [← BitVec.eq_of_toNat_eq hop]
  exact table e he

/-- The patterns stand in the order of their numbers, from 0 on. -/
theorem lookup_patternTable (p : BitVec 4) :
    patternTable.lookup p = (patternTable.map Prod.snd)[p.toNat]? := by
  decide +revert

/-! ## The obligations -/

/-- Settles O6: with `rsv` 0, the numbers of the clauses are those of the fields `op` and `pat`, and the lists
of the clauses are the decoder's tables. -/
theorem decodeFollowsTheRule : Obligations.DecodeFollowsTheRule := by
  intro w
  refine ⟨fun h => decode_of_rsvField_ne_zero (mt (rsvField_eq_zero_iff w).mp h), fun h => ?_⟩
  have hrsv : rsvField w = 0 := (rsvField_eq_zero_iff w).mpr h
  rw [← toNat_opField, ← toNat_patField_of_rsv h]
  refine ⟨fun hop => ?unlisted, fun hop => ?pat, fun i hi => ?listed⟩
  case unlisted => exact decode_of_op_not_mem_opValues hrsv (mt opValues_perm.mem_iff.mp hop)
  case pat =>
    rw [decode_of_opField_eq_patOp hrsv (BitVec.eq_of_toNat_eq hop), lookup_patternTable]
    constructor
    · intro hle
      rw [List.getElem?_eq_none hle]
      rfl
    · intro i hi
      have hget : (patternTable.map Prod.snd)[(patField w).toNat]? = some i := hi
      rw [hget]
      rfl
  case listed =>
    rw [decode_of_lookup_opTable_eq_some hrsv (lookup_opTable_eq_some hi)]
    have hzero : patField w = 0 ↔ (patField w).toNat = 0 := BitVec.toNat_inj.symm
    exact ⟨fun hp => if_pos (mt hzero.mp hp), fun hp => if_neg (not_not.mpr (hzero.mpr hp))⟩

/-- Settles O5: seven of the words are words of commands; of the illegal ones, the first has a `pat` outside
the table and the second a bit of `rsv`. -/
theorem tableWordsDecode : Obligations.TableWordsDecode :=
  ⟨decode_encode .nop, decode_encode .unpack, decode_encode .adjb, decode_encode .binFs,
    decode_encode .stream, decode_encode .patGradient, decode_encode .reset,
    decode_of_opField_eq_patOp rfl rfl, decode_of_rsvField_ne_zero (by decide)⟩

end Sys2Proof.Machine
end

section
/-! PROOFS. The codec (40_codec.md): what PACK and UNPACK leave in the cells of a byte and of a pixel, and that each
undoes the other. -/

namespace Sys2Proof.Machine

open Sys2Proof.Spec

/-! ## Frame commands by their bodies -/

/-- No guard of 60_exceptions.md R158 stops a frame command in a ready state. -/
theorem exec_of_ready {i : Instr} (hi : isFrame i = true) {s : State} (h : s.ready) :
    exec i s = .next (frameBody i s) := by
  rw [exec_eq_frameCommand hi, frameCommand_of_ready h]

/-- The rule of a frame command follows from what its body leaves; the dimension check is the same in all. -/
theorem frameCommandRule_of_frameBody {i : Instr} {word : Word} {post : State → State → Prop}
    (hi : isFrame i = true) (hword : encode i = word) (hbody : ∀ s, s.ready → post s (frameBody i s)) :
    FrameCommand i word post := by
  subst hword
  refine ⟨decode_encode i, fun s hf => ⟨fun hd => ?ready, fun hd => ?invalid⟩⟩
  case ready => exact ⟨frameBody i s, exec_of_ready hi ⟨hf, hd⟩, hbody s ⟨hf, hd⟩⟩
  case invalid =>
    rw [exec_eq_frameCommand hi, frameCommand_of_invalid hf hd]
    rfl

/-! ## The bits of a packed frame (30_encoding.md R69) -/

/-- Byte column and lane of a pixel. -/
theorem bitOf_lane (b : Nat → Byte) (w y c : Nat) {k : Nat} (hk : k < 8) :
    bitOf b w (8 * c + k) y = (b (bx w y c)).getLsbD (7 - k) := by
  have hcolumn : (8 * c + k) / 8 = c := by omega
  have hlane : (8 * c + k) % 8 = k := by omega
  rw [bitOf, hcolumn, hlane]

/-- `BitOf` reads back what `Packed` wrote. -/
theorem bitOf_of_packedAs {w h : Nat} {p : Nat → Nat → Bool} {b : Nat → Byte} (hb : PackedAs w h p b)
    {x y : Nat} (hx : x < w) (hy : y < h) : bitOf b w x y = p x y := by
  have hbit := hb y hy (x / 8) (column_lt hx) (x % 8) (Nat.mod_lt x (by decide))
  rw [Nat.div_add_mod, if_pos hx] at hbit
  exact hbit

/-- Two buffers with the same bits in every active byte agree on the active bytes. -/
theorem eq_of_same_bits {w h : Nat} {a b : Nat → Byte}
    (hbits : ∀ y, y < h → ∀ c, c < bpr w → ∀ k, k < 8 →
      (a (bx w y c)).getLsbD (7 - k) = (b (bx w y c)).getLsbD (7 - k))
    {i : Nat} (hi : i < packedLen w h) : a i = b i := by
  have hrow : i / bpr w < h := Nat.div_lt_of_lt_mul hi
  have hcolumn : i % bpr w < bpr w := Nat.mod_lt i (Nat.pos_of_mul_pos_right (Nat.zero_lt_of_lt hi))
  have hindex : bx w (i / bpr w) (i % bpr w) = i := px_of_index (w := bpr w)
  rw [← hindex]
  exact byte_ext (hbits _ hrow _ hcolumn)

/-- A row of whole bytes has no pad bits. -/
theorem lane_lt_of_whole_bytes {w c k : Nat} (hw : w % 8 = 0) (hc : c < bpr w) (hk : k < 8) : 8 * c + k < w := by
  unfold bpr at hc
  omega

/-! ## What the two bodies leave -/

/-- The body of PACK (40_codec.md R81). -/
theorem packBody_packedAs (s : State) :
    PackedAs s.w s.h (fun x y => s.monoAt (px s.w x y)) (packBody s).packedAt := by
  intro y hy c hc k hk
  change ((packBody s).packedAt (bx s.w y c)).getLsbD (7 - k) = _
  rw [s.packedAt_packBody, if_pos (show bx s.w y c < s.plen from bx_lt hc hy), bx_div hc, bx_mod hc,
    getLsbD_packByte _ _ _ _ _ hk]
  by_cases hx : 8 * c + k < s.w
  · simp [hx, framePixel_monoFrame s hx hy]
  · simp [hx]

/-- The body of UNPACK (40_codec.md R83). -/
theorem monoAt_unpackBody_px (s : State) {x y : Nat} (hx : x < s.w) (hy : y < s.h) :
    (unpackBody s).monoAt (px s.w x y) = bitOf s.packedAt s.w x y := by
  have hbyte : bx s.w y (x / 8) < s.plen := bx_lt (column_lt hx) hy
  rw [s.monoAt_unpackBody, if_pos (px_lt hx hy), px_mod hx, px_div hx]
  simp [bitOf, Array.getD, hbyte]

/-! ## Each body undoes the other (40_codec.md R84) -/

theorem monoAt_unpackBody_packBody (s : State) (i : Nat) :
    (unpackBody (packBody s)).monoAt i = s.monoAt i := by
  by_cases hi : i < s.w * s.h
  · have hx : i % s.w < s.w := Nat.mod_lt i (Nat.pos_of_mul_pos_right (Nat.zero_lt_of_lt hi))
    have hy : i / s.w < s.h := Nat.div_lt_of_lt_mul hi
    have hpixel : (unpackBody (packBody s)).monoAt (px s.w (i % s.w) (i / s.w)) =
        s.monoAt (px s.w (i % s.w) (i / s.w)) :=
      (monoAt_unpackBody_px (packBody s) hx hy).trans (bitOf_of_packedAs (packBody_packedAs s) hx hy)
    rwa [px_of_index] at hpixel
  · exact (unpackBody_draws (packBody s)).mono i (not_lt.mp hi)

theorem getLsbD_packBody_unpackBody (s : State) {y c k : Nat} (hy : y < s.h) (hc : c < bpr s.w) (hk : k < 8) :
    ((packBody (unpackBody s)).packedAt (bx s.w y c)).getLsbD (7 - k) =
      if 8 * c + k < s.w then (s.packedAt (bx s.w y c)).getLsbD (7 - k) else false := by
  refine (packBody_packedAs (unpackBody s) y hy c hc k hk).trans (ite_congr rfl (fun hx => ?_) fun _ => rfl)
  exact (monoAt_unpackBody_px s hx hy).trans (bitOf_lane _ _ _ _ hk)

theorem packedAt_packBody_unpackBody (s : State) (hw : s.w % 8 = 0) (i : Nat) :
    (packBody (unpackBody s)).packedAt i = s.packedAt i := by
  by_cases hi : i < s.plen
  · refine eq_of_same_bits (fun y hy c hc k hk => ?_) hi
    rw [getLsbD_packBody_unpackBody s hy hc hk, if_pos (lane_lt_of_whole_bytes hw hc hk)]
  · exact (packBody_draws (unpackBody s)).packed i (not_lt.mp hi)

/-! ## The obligations -/

/-- Settles O20: the body of PACK writes the packed form and draws active cells only. -/
theorem packWritesThePackedForm : Obligations.PackWritesThePackedForm :=
  frameCommandRule_of_frameBody rfl rfl fun s _ => ⟨packBody_eq s, packBody_packedAs s, (packBody_draws s).packed⟩

/-- Settles O21: the body of UNPACK writes each pixel's bit and draws active cells only. -/
theorem unpackReadsThePixelBits : Obligations.UnpackReadsThePixelBits :=
  frameCommandRule_of_frameBody rfl rfl fun s _ =>
    ⟨rfl, fun _ hy _ hx => monoAt_unpackBody_px s hx hy, (unpackBody_draws s).mono⟩

/-- Settles O22: PACK keeps the state ready, so both bodies run, and the second undoes the first. -/
theorem unpackAfterPackRestoresMono : Obligations.UnpackAfterPackRestoresMono := fun s hready =>
  have hready' : (packBody s).ready := hready
  ⟨packBody s, unpackBody (packBody s), exec_of_ready rfl hready, exec_of_ready rfl hready', rfl,
    monoAt_unpackBody_packBody s⟩

/-- Settles O23: UNPACK keeps the state ready, so both bodies run, and the second undoes the first on every
pixel bit. -/
theorem packAfterUnpackRestoresPacked : Obligations.PackAfterUnpackRestoresPacked := fun s hready =>
  have hready' : (unpackBody s).ready := hready
  ⟨unpackBody s, packBody (unpackBody s), exec_of_ready rfl hready, exec_of_ready rfl hready',
    fun _ hy _ hc _ hk => getLsbD_packBody_unpackBody s hy hc hk, packedAt_packBody_unpackBody s⟩

end Sys2Proof.Machine
end

section
/-! PROOFS. The tone adjustments (41_tone_binarize.md section 1): the sample maps of ADJC and ADJB as the integer
formulas of R91 and R92, and what follows from the formulas (R93). -/

namespace Sys2Proof.Machine

open Sys2Proof.Spec

/-! ## The sample maps as integers -/

theorem clamp_eq (v : Int) : clamp v 0 255 = max 0 (min 255 v) := by
  unfold clamp
  split_ifs <;> omega

theorem toNat_toSample (v : Int) : ((toSample v).toNat : Int) = max 0 (min 255 v) := by
  rw [toSample, clamp_eq, BitVec.toNat_ofNat]
  omega

theorem toNat_contrastSample (cq : Half) (v : Byte) :
    ((contrastSample cq v).toNat : Int) = contrast cq.toNat v.toNat := toNat_toSample _

theorem toNat_brightSample (bq : Half) (v : Byte) :
    ((brightSample bq v).toNat : Int) = bright bq.toNat v.toNat := toNat_toSample _

/-! ## The formulas (41_tone_binarize.md R91 (a), (c), R92 (a), R93) -/

section Formulas

variable {q v v' : Int}

theorem contrast_mono (hq : 0 ≤ q) (h : v ≤ v') : contrast q v ≤ contrast q v' := by
  have hdeviation : (v - 128) * q ≤ (v' - 128) * q := mul_le_mul_of_nonneg_right (by omega) hq
  have hlevel := Int.ediv_le_ediv (show (0 : Int) < 256 by decide) (add_le_add_right hdeviation (128 * 256))
  exact max_le_max_left 0 (min_le_min_left 255 hlevel)

theorem bright_mono (hq : 0 ≤ q) (h : v ≤ v') : bright q v ≤ bright q v' :=
  max_le_max_left 0 (min_le_min_left 255
    (Int.ediv_le_ediv (by decide) (mul_le_mul_of_nonneg_right h hq)))

theorem contrast_midGray (q : Int) : contrast q 128 = 128 := by simp [contrast]

theorem contrast_one (h0 : 0 ≤ v) (h255 : v ≤ 255) : contrast 256 v = v := by
  unfold contrast
  omega

theorem bright_one (h0 : 0 ≤ v) (h255 : v ≤ 255) : bright 256 v = v := by
  unfold bright
  omega

end Formulas

theorem byte_eq_of_int_eq {a b : Byte} (h : (a.toNat : Int) = b.toNat) : a = b :=
  BitVec.eq_of_toNat_eq (Int.ofNat.inj h)

/-- The contrast pivot is a fixed point of the sample map, whatever the multiplier. -/
theorem contrastSample_midGray (cq : Half) : contrastSample cq 128 = 128 :=
  byte_eq_of_int_eq ((toNat_contrastSample cq 128).trans (contrast_midGray _))

/-- At the multiplier 1.0 contrast changes no sample. -/
theorem contrastSample_one (v : Byte) : contrastSample one88 v = v :=
  byte_eq_of_int_eq ((toNat_contrastSample one88 v).trans (contrast_one (by omega) (by omega)))

/-- At the multiplier 1.0 brightness changes no sample. -/
theorem brightSample_one (v : Byte) : brightSample one88 v = v :=
  byte_eq_of_int_eq ((toNat_brightSample one88 v).trans (bright_one (by omega) (by omega)))

theorem contrastSample_mono (cq : Half) {v v' : Byte} (h : v.toNat ≤ v'.toNat) :
    (contrastSample cq v).toNat ≤ (contrastSample cq v').toNat := by
  have hmap := contrast_mono (q := cq.toNat) (by omega) (Int.ofNat_le.mpr h)
  rw [← toNat_contrastSample, ← toNat_contrastSample] at hmap
  exact Int.ofNat_le.mp hmap

theorem brightSample_mono (bq : Half) {v v' : Byte} (h : v.toNat ≤ v'.toNat) :
    (brightSample bq v).toNat ≤ (brightSample bq v').toNat := by
  have hmap := bright_mono (q := bq.toNat) (by omega) (Int.ofNat_le.mpr h)
  rw [← toNat_brightSample, ← toNat_brightSample] at hmap
  exact Int.ofNat_le.mp hmap

/-! ## The active cells after the two commands -/

section Bodies

variable (s : State) {i : Nat}

theorem grayAt_adjcBody_active (hi : i < s.w * s.h) :
    (adjcBody s).grayAt i = contrastSample s.regs.contrast (s.grayAt i) := by
  rw [State.grayAt_adjcBody, if_pos hi]

theorem grayAt_adjbBody_active (hi : i < s.w * s.h) :
    (adjbBody s).grayAt i = brightSample s.regs.bright (s.grayAt i) := by
  rw [State.grayAt_adjbBody, if_pos hi]

theorem grayAt_adjcBody_one (h : s.regs.contrast = one88) : (adjcBody s).grayAt i = s.grayAt i := by
  rw [State.grayAt_adjcBody, h, contrastSample_one, ite_self]

theorem grayAt_adjbBody_one (h : s.regs.bright = one88) : (adjbBody s).grayAt i = s.grayAt i := by
  rw [State.grayAt_adjbBody, h, brightSample_one, ite_self]

end Bodies

/-! ## The obligations -/

/-- Settles O25: the sample map of ADJC is the formula of R91, and the body draws active cells only. -/
theorem contrastAdjustsEveryActiveSample : Obligations.ContrastAdjustsEveryActiveSample :=
  frameCommandRule_of_frameBody rfl rfl fun s _ =>
    ⟨rfl, fun _ hi => by rw [frameBody, grayAt_adjcBody_active s hi, toNat_contrastSample], (adjcBody_draws s).gray⟩

/-- Settles O26: the sample map of ADJB is the formula of R92, and the body draws active cells only. -/
theorem brightnessAdjustsEveryActiveSample : Obligations.BrightnessAdjustsEveryActiveSample :=
  frameCommandRule_of_frameBody rfl rfl fun s _ =>
    ⟨rfl, fun _ hi => by rw [frameBody, grayAt_adjbBody_active s hi, toNat_brightSample], (adjbBody_draws s).gray⟩

/-- Settles O27: order, fixed point and identity of the two sample maps, cell by cell. -/
theorem toneMapsAreMonotoneAndFixed : Obligations.ToneMapsAreMonotoneAndFixed := by
  intro s hready
  refine ⟨adjcBody s, adjbBody s, exec_of_ready rfl hready, exec_of_ready rfl hready, ?order, ?pivot,
    fun hone _ => grayAt_adjcBody_one s hone, fun hone _ => grayAt_adjbBody_one s hone⟩
  case order =>
    intro i j hi hj hle
    rw [grayAt_adjcBody_active s hi, grayAt_adjcBody_active s hj, grayAt_adjbBody_active s hi,
      grayAt_adjbBody_active s hj]
    exact ⟨contrastSample_mono _ hle, brightSample_mono _ hle⟩
  case pivot =>
    intro i hi hgray
    rw [grayAt_adjcBody_active s hi, hgray, contrastSample_midGray]

end Sys2Proof.Machine
end

section
/-! PROOFS. The raster scan of BIN_FS (41_tone_binarize.md R96): the error store after any number of pixels holds, in
every cell, the shares of the neighbours scanned so far. Its bounds (R100) follow, and that a pixel's turn finds all
the shares it is owed, which is the gathering form of the diffusion equations. -/

namespace Sys2Proof.Machine

open Sys2Proof.Spec

/-! ## Pixels and their neighbours in raster order -/

section Raster

variable {w h x y x' y' k : Nat}

theorem px_eq_iff (hx : x < w) (hx' : x' < w) : px w x y = px w x' y' ↔ x = x' ∧ y = y' :=
  ⟨px_inj hx hx', by rintro ⟨rfl, rfl⟩; rfl⟩

theorem px_next_row (w x y : Nat) : px w x (y + 1) = px w x y + w := by
  unfold px
  rw [Nat.succ_mul, Nat.add_right_comm]

theorem px_next_column (w x y : Nat) : px w (x + 1) y = px w x y + 1 := rfl

/-- Every index of the frame is a pixel's. -/
theorem exists_px (hk : k < w * h) : ∃ x y, x < w ∧ y < h ∧ px w x y = k :=
  ⟨k % w, k / w, Nat.mod_lt k (Nat.pos_of_mul_pos_right (Nat.zero_lt_of_lt hk)), Nat.div_lt_of_lt_mul hk, px_of_index⟩

theorem px_left_lt (hx : 1 ≤ x) : px w (x - 1) y < px w x y := by
  unfold px
  omega

theorem px_above_lt (hx : x < w) (hy : 1 ≤ y) : px w x (y - 1) < px w x y := by
  obtain ⟨y, rfl⟩ := Nat.exists_eq_add_of_le' hy
  rw [px_next_row, Nat.add_sub_cancel]
  omega

theorem px_aboveLeft_lt (hx : x < w) (hx1 : 1 ≤ x) (hy : 1 ≤ y) : px w (x - 1) (y - 1) < px w x y :=
  (px_left_lt hx1).trans (px_above_lt hx hy)

theorem px_aboveRight_lt (hx : x + 1 < w) (hy : 1 ≤ y) : px w (x + 1) (y - 1) < px w x y := by
  obtain ⟨y, rfl⟩ := Nat.exists_eq_add_of_le' hy
  rw [px_next_row, px_next_column, Nat.add_sub_cancel]
  omega

/-! The targets of a pixel's four shares (41_tone_binarize.md R96), read from the target: which neighbour of `(x, y)`
the pixel is. -/

theorem shareRight_iff (hx : x < w) (hx' : x' < w) :
    (decide (x' + 1 < w) = true ∧ px w x' y' + 1 = px w x y) ↔ 1 ≤ x ∧ x - 1 = x' ∧ y = y' := by
  rw [decide_eq_true_iff, ← px_next_column]
  constructor
  · rintro ⟨hin, heq⟩
    obtain ⟨rfl, rfl⟩ := px_inj hin hx heq
    omega
  · rintro ⟨hin, rfl, rfl⟩
    rw [Nat.sub_add_cancel hin]
    exact ⟨hx, rfl⟩

theorem shareBelow_iff (hx : x < w) (hx' : x' < w) (hy : y < h) :
    (decide (y' + 1 < h) = true ∧ px w x' y' + w = px w x y) ↔ 1 ≤ y ∧ x = x' ∧ y - 1 = y' := by
  rw [decide_eq_true_iff, ← px_next_row, px_eq_iff hx' hx]
  omega

theorem shareBelowRight_iff (hx : x < w) (hx' : x' < w) (hy : y < h) :
    (decide (x' + 1 < w ∧ y' + 1 < h) = true ∧ px w x' y' + w + 1 = px w x y) ↔
      (1 ≤ x ∧ 1 ≤ y) ∧ x - 1 = x' ∧ y - 1 = y' := by
  rw [decide_eq_true_iff, ← px_next_row, and_right_comm, ← decide_eq_true_iff (p := x' + 1 < w),
    shareRight_iff hx hx']
  omega

theorem shareBelowLeft_iff (hx : x < w) (hx' : x' < w) (hy : y < h) :
    (decide (1 ≤ x' ∧ y' + 1 < h) = true ∧ px w x' y' + w - 1 = px w x y) ↔
      (x + 1 < w ∧ 1 ≤ y) ∧ x + 1 = x' ∧ y - 1 = y' := by
  rw [decide_eq_true_iff, ← px_next_row]
  cases x' with
  | zero => omega
  | succ x' =>
    rw [px_next_column, Nat.add_sub_cancel, px_eq_iff (by omega) hx]
    omega

end Raster

/-! ## One pixel of the scan -/

theorem correctedSample_eq (gray : Array Byte) (err : Array Int) (i : Nat) :
    correctedSample gray err i = max 0 (min 255 (((gray.getD i 0).toNat : Int) + err.getD i 0)) := clamp_eq _

theorem quantError_eq (old : Int) : quantError old = if old < 128 then old else old - 255 := by
  rw [quantError, sub_zero]

/-- "The quantisation error lies in -127 .. 127" (41_tone_binarize.md R100). -/
theorem quantError_bounds (gray : Array Byte) (err : Array Int) (i : Nat) :
    -127 ≤ quantError (correctedSample gray err i) ∧ quantError (correctedSample gray err i) ≤ 127 := by
  rw [quantError_eq, correctedSample_eq]
  split_ifs <;> omega

theorem getD_addShare {err : Array Int} {j : Nat} (hj : j < err.size) (inside : Bool) (i : Nat) (k e : Int) :
    (addShare inside i k e err).getD j 0 = err.getD j 0 + if inside = true ∧ i = j then k * e / 16 else 0 := by
  unfold addShare
  cases inside with
  | false => simp
  | true =>
    by_cases hij : i = j
    · subst hij
      simp [Array.getD, hj]
    · simp [Array.getD, hj, hij]

/-- What pixel `(x', y')` with error `e` adds to the cell of `(x, y)` in rows of `w` pixels: its share, if it is one of
the four neighbours that `incoming` reads. -/
def sharesTo (w : Nat) (e : Int) (x' y' x y : Nat) : Int :=
  (if 1 ≤ x ∧ x - 1 = x' ∧ y = y' then 7 * e / 16 else 0) +
    (if 1 ≤ y ∧ x = x' ∧ y - 1 = y' then 5 * e / 16 else 0) +
    (if (1 ≤ x ∧ 1 ≤ y) ∧ x - 1 = x' ∧ y - 1 = y' then 1 * e / 16 else 0) +
    (if (x + 1 < w ∧ 1 ≤ y) ∧ x + 1 = x' ∧ y - 1 = y' then 3 * e / 16 else 0)

theorem getD_err_ditherPixel {w h : Nat} (gray : Array Byte) {d : DitherScan} (hsize : d.err.size = w * h)
    {x y x' y' : Nat} (hx : x < w) (hy : y < h) (hx' : x' < w) :
    (ditherPixel w h gray d (px w x' y')).err.getD (px w x y) 0 =
      d.err.getD (px w x y) 0 + sharesTo w (quantError (correctedSample gray d.err (px w x' y'))) x' y' x y := by
  have hcell : px w x y < d.err.size := hsize ▸ px_lt hx hy
  simp only [ditherPixel, px_mod hx', px_div hx']
  rw [getD_addShare (by simpa), getD_addShare (by simpa), getD_addShare (by simpa), getD_addShare hcell]
  simp only [shareRight_iff hx hx', shareBelow_iff hx hx' hy, shareBelowRight_iff hx hx' hy,
    shareBelowLeft_iff hx hx' hy, sharesTo]
  ring

/-! ## The error store after any number of pixels -/

/-- The share, `m` sixteenths of its error, that pixel `(a, b)`, which exists if `p`, has given once it is among the
first `k` pixels of the scan. -/
def arrivedShare (w : Nat) (e : Nat → Nat → Int) (k : Nat) (p : Prop) [Decidable p] (m : Int) (a b : Nat) : Int :=
  if p ∧ px w a b < k then m * e a b / 16 else 0

section ArrivedShare

variable {w a b k : Nat} {e : Nat → Nat → Int} {p : Prop} [Decidable p] {m : Int}

theorem arrivedShare_zero : arrivedShare w e 0 p m a b = 0 := by simp [arrivedShare]

theorem arrivedShare_succ {x y : Nat} (ha : p → a < w) (hx : x < w) :
    arrivedShare w e (px w x y + 1) p m a b =
      arrivedShare w e (px w x y) p m a b + if p ∧ a = x ∧ b = y then m * e x y / 16 else 0 := by
  unfold arrivedShare
  by_cases hp : p
  · by_cases heq : px w a b = px w x y
    · obtain ⟨rfl, rfl⟩ := px_inj (ha hp) hx heq
      simp [hp]
    · have hother : ¬ (a = x ∧ b = y) := fun h => heq (by rw [h.1, h.2])
      have hbefore : px w a b < px w x y + 1 ↔ px w a b < px w x y := by omega
      simp [hp, hother, hbefore]
  · simp [hp]

theorem arrivedShare_of_lt (hk : p → px w a b < k) :
    arrivedShare w e k p m a b = if p then m * e a b / 16 else 0 := by
  simp only [arrivedShare, and_iff_left_of_imp hk]

theorem arrivedShare_bounds {lo hi : Int} (h0 : lo ≤ 0 ∧ 0 ≤ hi) (h : lo ≤ m * e a b / 16 ∧ m * e a b / 16 ≤ hi) :
    lo ≤ arrivedShare w e k p m a b ∧ arrivedShare w e k p m a b ≤ hi := by
  unfold arrivedShare
  split_ifs
  · exact h
  · exact h0

end ArrivedShare

/-- The shares that have reached pixel `(x, y)` after the first `k` pixels of the scan, when `e` gives every
pixel's quantisation error: `incoming`, restricted to those pixels. -/
def gathered (w : Nat) (e : Nat → Nat → Int) (k x y : Nat) : Int :=
  arrivedShare w e k (1 ≤ x) 7 (x - 1) y + arrivedShare w e k (1 ≤ y) 5 x (y - 1) +
    arrivedShare w e k (1 ≤ x ∧ 1 ≤ y) 1 (x - 1) (y - 1) + arrivedShare w e k (x + 1 < w ∧ 1 ≤ y) 3 (x + 1) (y - 1)

section Gathered

variable {w x y : Nat} {e : Nat → Nat → Int}

theorem gathered_zero : gathered w e 0 x y = 0 := by simp [gathered, arrivedShare_zero]

theorem gathered_px_succ {x' y' : Nat} (hx : x < w) (hx' : x' < w) :
    gathered w e (px w x' y' + 1) x y = gathered w e (px w x' y') x y + sharesTo w (e x' y') x' y' x y := by
  have hleft : x - 1 < w := by omega
  unfold gathered sharesTo
  rw [arrivedShare_succ (fun _ => hleft) hx', arrivedShare_succ (fun _ => hx) hx',
    arrivedShare_succ (fun _ => hleft) hx', arrivedShare_succ And.left hx']
  ring

/-- At a pixel's turn all its shares have arrived. -/
theorem gathered_px (hx : x < w) : gathered w e (px w x y) x y = incoming w e x y := by
  rw [gathered, incoming, arrivedShare_of_lt px_left_lt, arrivedShare_of_lt (px_above_lt hx),
    arrivedShare_of_lt fun hin => px_aboveLeft_lt hx hin.1 hin.2,
    arrivedShare_of_lt fun hin => px_aboveRight_lt hin.1 hin.2, one_mul]

/-- "Every error cell lies in -128 .. 124" (41_tone_binarize.md R100): the sum of the four floored shares' bounds. -/
theorem gathered_bounds (he : ∀ x y, -127 ≤ e x y ∧ e x y ≤ 127) (k : Nat) :
    -128 ≤ gathered w e k x y ∧ gathered w e k x y ≤ 124 := by
  have hleft : -56 ≤ 7 * e (x - 1) y / 16 ∧ 7 * e (x - 1) y / 16 ≤ 55 := by have := he (x - 1) y; omega
  have habove : -40 ≤ 5 * e x (y - 1) / 16 ∧ 5 * e x (y - 1) / 16 ≤ 39 := by have := he x (y - 1); omega
  have haboveLeft : -8 ≤ 1 * e (x - 1) (y - 1) / 16 ∧ 1 * e (x - 1) (y - 1) / 16 ≤ 7 := by
    have := he (x - 1) (y - 1); omega
  have haboveRight : -24 ≤ 3 * e (x + 1) (y - 1) / 16 ∧ 3 * e (x + 1) (y - 1) / 16 ≤ 23 := by
    have := he (x + 1) (y - 1); omega
  have h7 := arrivedShare_bounds (w := w) (k := k) (p := 1 ≤ x) (by decide) hleft
  have h5 := arrivedShare_bounds (w := w) (k := k) (p := 1 ≤ y) (by decide) habove
  have h1 := arrivedShare_bounds (w := w) (k := k) (p := 1 ≤ x ∧ 1 ≤ y) (by decide) haboveLeft
  have h3 := arrivedShare_bounds (w := w) (k := k) (p := x + 1 < w ∧ 1 ≤ y) (by decide) haboveRight
  unfold gathered
  omega

end Gathered

/-- The error-corrected sample of pixel `(x, y)` at its turn in the scan. -/
def scanSample (w h : Nat) (gray : Array Byte) (x y : Nat) : Int :=
  correctedSample gray (ditherScan w h gray (px w x y)).err (px w x y)

/-- The quantisation error of pixel `(x, y)` at its turn in the scan. -/
def scanError (w h : Nat) (gray : Array Byte) (x y : Nat) : Int := quantError (scanSample w h gray x y)

/-- The scatter form and the gather form agree after every pixel of the scan. -/
theorem getD_err_ditherScan {w h : Nat} (gray : Array Byte) {k x y : Nat} (hk : k ≤ w * h) (hx : x < w) (hy : y < h) :
    (ditherScan w h gray k).err.getD (px w x y) 0 = gathered w (scanError w h gray) k x y := by
  induction k with
  | zero => simp [ditherScan_zero, ditherStart, gathered_zero, Array.getD]
  | succ k ih =>
    obtain ⟨x', y', hx', -, rfl⟩ := exists_px (show k < w * h from hk)
    rw [ditherScan_succ, getD_err_ditherPixel gray (ditherScan_sizes w h gray _).1 hx hy hx', ih (by omega),
      gathered_px_succ hx hx']
    rfl

/-- Every error cell within its bounds; a cell that does not exist reads 0. -/
theorem getD_err_ditherScan_bounds {w h : Nat} (gray : Array Byte) {k : Nat} (hk : k ≤ w * h) (i : Nat) :
    -128 ≤ (ditherScan w h gray k).err.getD i 0 ∧ (ditherScan w h gray k).err.getD i 0 ≤ 124 := by
  by_cases hi : i < w * h
  · obtain ⟨x, y, hx, hy, rfl⟩ := exists_px hi
    rw [getD_err_ditherScan gray hk hx hy]
    exact gathered_bounds (fun _ _ => quantError_bounds _ _ _) k
  · have hout : ¬ i < (ditherScan w h gray k).err.size := by rwa [(ditherScan_sizes w h gray k).1]
    simp [Array.getD, hout]

/-- The scan decides each pixel at its turn, below 128 for black. -/
theorem ditherScan_black (w h : Nat) (gray : Array Byte) (k : Nat) :
    (ditherScan w h gray k).black.toList =
      (List.range k).map fun i => decide (correctedSample gray (ditherScan w h gray i).err i < 128) := by
  induction k with
  | zero => rfl
  | succ k ih => simp [ditherScan_succ, ditherPixel, ih, List.range_succ]

/-- Settles O31: the bounds of the error store and of the quantisation error; a sample lies in 0 .. 255. -/
theorem ditherErrorsStayInEightBits : Obligations.DitherErrorsStayInEightBits := by
  intro w h gray k hk i
  have herr := getD_err_ditherScan_bounds gray hk i
  have hquant := quantError_bounds gray (ditherScan w h gray k).err i
  omega

end Sys2Proof.Machine
end

section
/-! PROOFS. Binarization and inversion (41_tone_binarize.md sections 2 and 3). BIN_FS leaves a solution of the
diffusion equations, and the equations have no other: each error is determined by errors of earlier pixels. What is
said of the dithered picture follows from these two facts. -/

namespace Sys2Proof.Machine

open Sys2Proof.Spec

/-! ## The scan solves the diffusion equations -/

theorem getD_grayFrame (s : State) {i : Nat} (hi : i < s.w * s.h) : s.grayFrame.toArray.getD i 0 = s.grayAt i := by
  simp [Array.getD, hi]

theorem monoAt_binFsBody (s : State) {i : Nat} (hi : i < s.w * s.h) :
    (binFsBody s).monoAt i = decide (correctedSample s.grayFrame.toArray
      (ditherScan s.w s.h s.grayFrame.toArray i).err i < 128) := by
  rw [binFsBody, State.monoAt_putMono, dif_pos (by simpa using hi)]
  simp [ditherFrame, ditherScan_black]

theorem binFsBody_diffused (s : State) : Diffused s.w s.h s.grayAt (binFsBody s).monoAt := by
  refine ⟨scanError s.w s.h s.grayFrame.toArray, scanSample s.w s.h s.grayFrame.toArray,
    fun y hy x hx => ⟨?sample, quantError_eq _, monoAt_binFsBody s (px_lt hx hy)⟩⟩
  case sample =>
    have hactive : px s.w x y < s.w * s.h := px_lt hx hy
    rw [scanSample, correctedSample_eq, getD_grayFrame s hactive, getD_err_ditherScan _ hactive.le hx hy,
      gathered_px hx]
    rfl

/-! ## The diffusion equations have one solution -/

section Solutions

variable {w h : Nat} {gray : Nat → Byte} {b b' : Nat → Bool}

/-- What reaches a pixel depends on the errors of earlier pixels alone. -/
theorem incoming_congr {e e' : Nat → Nat → Int} {x y : Nat} (hx : x < w) (hy : y < h)
    (he : ∀ x' y', x' < w → y' < h → px w x' y' < px w x y → e x' y' = e' x' y') :
    incoming w e x y = incoming w e' x y := by
  refine congrArg₂ (· + ·) (congrArg₂ (· + ·) (congrArg₂ (· + ·) (ite_congr rfl (fun hin => ?left) fun _ => rfl)
    (ite_congr rfl (fun hin => ?above) fun _ => rfl)) (ite_congr rfl (fun hin => ?aboveLeft) fun _ => rfl))
    (ite_congr rfl (fun hin => ?aboveRight) fun _ => rfl)
  case left => rw [he _ _ (by omega) hy (px_left_lt hin)]
  case above => rw [he _ _ hx (by omega) (px_above_lt hx hin)]
  case aboveLeft => rw [he _ _ (by omega) (by omega) (px_aboveLeft_lt hx hin.1 hin.2)]
  case aboveRight => rw [he _ _ hin.1 (by omega) (px_aboveRight_lt hin.1 hin.2)]

/-- Two solutions on the same samples agree, by induction along the raster order. -/
theorem diffused_unique (hb : Diffused w h gray b) (hb' : Diffused w h gray b') :
    ∀ y, y < h → ∀ x, x < w → b (px w x y) = b' (px w x y) := by
  obtain ⟨e, old, hsolve⟩ := hb
  obtain ⟨e', old', hsolve'⟩ := hb'
  have same : ∀ n x y, px w x y = n → x < w → y < h → old x y = old' x y ∧ e x y = e' x y := by
    intro n
    induction n using Nat.strong_induction_on with
    | h n ih =>
      rintro x y rfl hx hy
      obtain ⟨hold, herr, -⟩ := hsolve y hy x hx
      obtain ⟨hold', herr', -⟩ := hsolve' y hy x hx
      have hin : incoming w e x y = incoming w e' x y :=
        incoming_congr hx hy fun x' y' hx' hy' hlt => (ih _ hlt x' y' rfl hx' hy').2
      have hcorrected : old x y = old' x y := by rw [hold, hold', hin]
      exact ⟨hcorrected, by rw [herr, herr', hcorrected]⟩
  intro y hy x hx
  obtain ⟨-, -, hblack⟩ := hsolve y hy x hx
  obtain ⟨-, -, hblack'⟩ := hsolve' y hy x hx
  change b (y * w + x) = b' (y * w + x)
  rw [hblack, hblack', (same _ x y rfl hx hy).1]

/-- The equations speak of the active cells alone. -/
theorem diffused_congr (hb : Diffused w h gray b) (hbb' : ∀ y, y < h → ∀ x, x < w → b' (px w x y) = b (px w x y)) :
    Diffused w h gray b' := by
  obtain ⟨e, old, hsolve⟩ := hb
  refine ⟨e, old, fun y hy x hx => ?_⟩
  obtain ⟨hold, herr, hblack⟩ := hsolve y hy x hx
  exact ⟨hold, herr, (hbb' y hy x hx).trans hblack⟩

end Solutions

/-- What the scan leaves in an active cell is what any solution has there. -/
theorem monoAt_binFsBody_of_diffused (s : State) {b : Nat → Bool} (hb : Diffused s.w s.h s.grayAt b) {i : Nat}
    (hi : i < s.w * s.h) : (binFsBody s).monoAt i = b i := by
  obtain ⟨x, y, hx, hy, rfl⟩ := exists_px hi
  exact diffused_unique (binFsBody_diffused s) hb y hy x hx

/-! ## Uniform frames (41_tone_binarize.md R96 (a), (b)) -/

theorem incoming_zero (w x y : Nat) : incoming w (fun _ _ => 0) x y = 0 := by simp [incoming]

/-- A frame of an extreme sample `v`, 0 or 255, is solved without any error. -/
theorem diffused_of_extreme {w h : Nat} {gray : Nat → Byte} {v : Byte} (hv : v = 0 ∨ v = 255)
    (hgray : ∀ i, i < w * h → gray i = v) : Diffused w h gray fun _ => decide (v = 0) := by
  refine ⟨fun _ _ => 0, fun _ _ => v.toNat, fun y hy x hx => ?_⟩
  rw [incoming_zero, hgray (y * w + x) (px_lt hx hy)]
  obtain rfl | rfl := hv
  · simp
  · simp

/-- On a frame of one pixel nothing reaches that pixel, so its own sample decides. -/
theorem diffused_onePixel {gray : Nat → Byte} {b : Nat → Bool} (hb : Diffused 1 1 gray b) :
    b 0 = decide ((gray 0).toNat < 128) := by
  obtain ⟨e, old, hsolve⟩ := hb
  obtain ⟨hold, -, hblack⟩ := hsolve 0 Nat.one_pos 0 Nat.one_pos
  have hin : incoming 1 e 0 0 = 0 := by simp [incoming]
  rw [hin] at hold
  refine hblack.trans (decide_eq_decide.mpr ?_)
  change old 0 0 = max 0 (min 255 (((gray 0).toNat : Int) + 0)) at hold
  omega

/-! ## The other bodies in an active cell -/

theorem monoAt_binThrBody_iff (s : State) {i : Nat} (hi : i < s.w * s.h) :
    (binThrBody s).monoAt i = true ↔ (s.grayAt i).toNat < s.regs.threshold.toNat := by
  rw [State.monoAt_binThrBody, if_pos hi, thresholdBlack, decide_eq_true_iff]

theorem binarizeBody_of_dither {s : State} (h : s.regs.dither = true) : binarizeBody s = binFsBody s := if_pos h

theorem binarizeBody_of_threshold {s : State} (h : s.regs.dither = false) : binarizeBody s = binThrBody s :=
  if_neg (by simp [h])

/-- Either mode writes MONO only. -/
theorem binarizeBody_eq (s : State) : binarizeBody s = { s with mono := (binarizeBody s).mono } := by
  unfold binarizeBody
  split <;> rfl

/-! ## The obligations -/

/-- Settles O28: the body of BIN_THR decides each active cell at the threshold and draws active cells only. -/
theorem thresholdIsStrictlyBelow : Obligations.ThresholdIsStrictlyBelow :=
  frameCommandRule_of_frameBody rfl rfl fun s _ =>
    ⟨rfl, fun _ hi => monoAt_binThrBody_iff s hi, (binThrBody_draws s).mono⟩

/-- Settles O29: a pixel's turn finds all the shares it is owed, so the scan solves the gathering equations. -/
theorem ditherSolvesTheDiffusionEquations : Obligations.DitherSolvesTheDiffusionEquations :=
  frameCommandRule_of_frameBody rfl rfl fun s _ => ⟨rfl, binFsBody_diffused s, (binFsBody_draws s).mono⟩

/-- Settles O30: the scan leaves a solution, two solutions agree, and the equations see active cells alone. -/
theorem diffusionEquationsDetermineThePicture : Obligations.DiffusionEquationsDetermineThePicture :=
  fun s hready => ⟨binFsBody s, exec_of_ready rfl hready, fun _ =>
    ⟨fun hb => diffused_unique hb (binFsBody_diffused s), fun hagree => diffused_congr (binFsBody_diffused s) hagree⟩⟩

/-- Settles O33: equal active samples make equal lists of samples, which with W and H is all the scan reads. -/
theorem ditherDependsOnTheFrameAlone : Obligations.DitherDependsOnTheFrameAlone := by
  intro s s' hready hready' hwidth hheight hgray
  refine ⟨binFsBody s, binFsBody s', exec_of_ready rfl hready, exec_of_ready rfl hready', fun i hi => ?_⟩
  have hw : s'.w = s.w := by rw [State.w, State.w, hwidth]
  have hh : s'.h = s.h := by rw [State.h, State.h, hheight]
  have hframe : s'.grayFrame = s.grayFrame := by
    rw [State.grayFrame_eq, State.grayFrame_eq, hw, hh]
    exact List.map_congr_left fun i hi => (hgray i (List.mem_range.mp hi)).symm
  rw [monoAt_binFsBody s hi, monoAt_binFsBody s' (by rwa [hw, hh]), hframe, hw, hh]

/-- Settles O34: a uniform frame of 0 or 255 has a solution without errors, which is the only one. -/
theorem uniformFramesDitherToUniform : Obligations.UniformFramesDitherToUniform := by
  intro s hready
  refine ⟨binFsBody s, exec_of_ready rfl hready, fun hblack i hi => ?black, fun hwhite i hi => ?white,
    fun hw hh => ?onePixel⟩
  case black => exact monoAt_binFsBody_of_diffused s (diffused_of_extreme (.inl rfl) hblack) hi
  case white => exact monoAt_binFsBody_of_diffused s (diffused_of_extreme (.inr rfl) hwhite) hi
  case onePixel =>
    have hsolve := binFsBody_diffused s
    rw [hw, hh] at hsolve
    exact diffused_onePixel hsolve

/-- Settles O35: the body of BINARIZE is the selected body; both modes draw active cells only. -/
theorem binarizeSelectsTheMode : Obligations.BinarizeSelectsTheMode := by
  refine frameCommandRule_of_frameBody rfl rfl fun s hready =>
    ⟨binarizeBody_eq s, (binarizeBody_draws s).mono, fun hdither => ?dither, fun hdither => ?threshold⟩
  case dither =>
    rw [frameBody, binarizeBody_of_dither hdither]
    exact ⟨exec_of_ready rfl hready, binFsBody_diffused s⟩
  case threshold =>
    rw [frameBody, binarizeBody_of_threshold hdither]
    exact ⟨exec_of_ready rfl hready, fun _ hi => monoAt_binThrBody_iff s hi⟩

/-- Settles O36: the body of INVERT complements each active cell and draws active cells only. -/
theorem invertComplementsMono : Obligations.InvertComplementsMono :=
  frameCommandRule_of_frameBody rfl rfl fun s _ =>
    ⟨rfl, fun i hi => (s.monoAt_invertBody i).trans (if_pos hi), (invertBody_draws s).mono⟩

end Sys2Proof.Machine
end

section
/-! PROOFS. Which registers the binarized picture depends on (41_tone_binarize.md R99, R102), and what CONVERT leaves
of it: THRESHOLD is not read in dither mode, MODE.INVERT complements the picture after it has been decided, and a
mid-gray frame comes out white (R95). -/

namespace Sys2Proof.Machine

open Sys2Proof.Spec

/-! ## New registers around the bodies -/

/-- `s` with the registers `r`. -/
def State.setRegs (s : State) (r : Regs) : State := { s with regs := r }

/-- The registers `r` and `r'` agree on all that steps 4 to 6 of the pipeline read, THRESHOLD being read in
threshold mode only (41_tone_binarize.md R98, R99). -/
structure SameBinarization (r r' : Regs) : Prop where
  width : r'.width = r.width
  height : r'.height = r.height
  contrast : r'.contrast = r.contrast
  bright : r'.bright = r.bright
  dither : r'.dither = r.dither
  threshold : r.dither = false → r'.threshold = r.threshold

section SetRegs

variable {s : State} {r : Regs}

theorem grayFrame_setRegs (hw : r.width = s.regs.width) (hh : r.height = s.regs.height) :
    (s.setRegs r).grayFrame = s.grayFrame := by
  simp only [State.grayFrame, State.w, State.h, State.setRegs, hw, hh]

theorem binFsBody_setRegs (hw : r.width = s.regs.width) (hh : r.height = s.regs.height) :
    binFsBody (s.setRegs r) = (binFsBody s).setRegs r := by
  rw [binFsBody, grayFrame_setRegs hw hh]
  simp only [binFsBody, State.putMono, State.w, State.h, State.setRegs, hw, hh]

variable (h : SameBinarization s.regs r)

include h

theorem binThrBody_setRegs (hd : s.regs.dither = false) : binThrBody (s.setRegs r) = (binThrBody s).setRegs r := by
  rw [binThrBody, grayFrame_setRegs h.width h.height]
  simp only [binThrBody, State.putMono, State.setRegs, h.threshold hd]

theorem binarizeBody_setRegs : binarizeBody (s.setRegs r) = (binarizeBody s).setRegs r := by
  have hmode : (s.setRegs r).regs.dither = s.regs.dither := h.dither
  cases hd : s.regs.dither with
  | true =>
    rw [binarizeBody_of_dither (hmode.trans hd), binarizeBody_of_dither hd, binFsBody_setRegs h.width h.height]
  | false =>
    rw [binarizeBody_of_threshold (hmode.trans hd), binarizeBody_of_threshold hd, binThrBody_setRegs h hd]

theorem step4_setRegs : step4 (s.setRegs r) = (step4 s).setRegs r := by
  have hcq : (s.setRegs r).regs.contrast = s.regs.contrast := h.contrast
  simp only [step4, adjcBody, hcq, grayFrame_setRegs h.width h.height]
  split <;> rfl

theorem step5_setRegs : step5 (s.setRegs r) = (step5 s).setRegs r := by
  have hbq : (s.setRegs r).regs.bright = s.regs.bright := h.bright
  simp only [step5, adjbBody, hbq, grayFrame_setRegs h.width h.height]
  split <;> rfl

end SetRegs

/-! ## CONVERT up to the inversion -/

/-- Steps 4 to 6 of the pipeline: the adjusted frame, and in MONO the picture before inversion
(42_pipeline_serializer.md R110). -/
def binarized (s : State) : State := binarizeBody (step5 (step4 s))

theorem convertBody_eq (s : State) : convertBody s = packBody (step7 (binarized s)) := rfl

@[simp] theorem binarized_regs (s : State) : (binarized s).regs = s.regs := by simp [binarized]

theorem binarized_setRegs {s : State} {r : Regs} (h : SameBinarization s.regs r) :
    binarized (s.setRegs r) = (binarized s).setRegs r := by
  have h4 : SameBinarization (step4 s).regs r := by rwa [step4_regs]
  have h5 : SameBinarization (step5 (step4 s)).regs r := by rwa [step5_regs]
  rw [binarized, step4_setRegs h, step5_setRegs h4, binarizeBody_setRegs h5, binarized]

theorem step7_of_invert {s : State} (h : s.regs.invert = true) : step7 s = invertBody s := if_pos h

theorem step7_of_not_invert {s : State} (h : s.regs.invert = false) : step7 s = s := if_neg (by simp [h])

theorem frameBody_convert (s : State) :
    frameBody .convert s = (convertBody s).sizeCheck .converter (encode .convert) := rfl

/-- Step 8 leaves in PACKED the packed form of MONO as step 7 leaves it, and step 9 keeps PACKED. -/
theorem frameBody_convert_packedAs (s : State) :
    PackedAs s.w s.h (fun x y => (step7 (binarized s)).monoAt (px s.w x y)) (frameBody .convert s).packedAt := by
  have hregs : (step7 (binarized s)).regs = s.regs := by simp
  have hpacked := packBody_packedAs (step7 (binarized s))
  have hkept : (frameBody .convert s).packedAt = (convertBody s).packedAt := by
    rw [frameBody_convert, sizeCheck_eq_regs]
    rfl
  rwa [State.w_congr hregs, State.h_congr hregs, ← convertBody_eq, ← hkept] at hpacked

theorem sizeCheck_of_eq {s : State} (h : s.plen = s.regs.expLen.toNat) (kind : CheckKind) (cmd : Word) :
    s.sizeCheck kind cmd = s := if_pos h

/-! ## Another threshold (41_tone_binarize.md R99) -/

/-- `s` with the value `v` in THRESHOLD. -/
def State.setThreshold (s : State) (v : Byte) : State := { s with regs := { s.regs with threshold := v } }

/-- The guards of a frame command do not read THRESHOLD. -/
theorem frameCommand_setThreshold {s : State} {v : Byte} {body : State → State}
    (hbody : body (s.setThreshold v) = (body s).setThreshold v) (cmd : Word) :
    frameCommand cmd body (s.setThreshold v) = (frameCommand cmd body s).setThreshold v := by
  rcases frameCommand_cases cmd body s with ⟨hf, e⟩ | ⟨hf, hd, e⟩ | ⟨hready, e⟩ <;> rw [e]
  · exact frameCommand_of_fault (s := s.setThreshold v) hf cmd body
  · exact frameCommand_of_invalid (s := s.setThreshold v) hf hd cmd body
  · rw [frameCommand_of_ready (s := s.setThreshold v) hready, hbody]

theorem sizeCheck_setThreshold (kind : CheckKind) (cmd : Word) (s : State) (v : Byte) :
    (s.setThreshold v).sizeCheck kind cmd = (s.sizeCheck kind cmd).setThreshold v := by
  unfold State.sizeCheck
  rw [apply_ite (State.setThreshold · v)]
  refine ite_congr rfl (fun _ => rfl) fun _ => ?_
  cases kind with
  | pattern => rfl
  | converter =>
    exact (apply_ite (State.setThreshold · v) (s.regs.strict = true) (s.raiseFault .sizeMismatch cmd)
      s.warnSizeMismatch).symm

theorem step7_setThreshold (s : State) (v : Byte) : step7 (s.setThreshold v) = (step7 s).setThreshold v := by
  unfold step7
  exact (apply_ite (State.setThreshold · v) (s.regs.invert = true) (invertBody s) s).symm

theorem setThreshold_eq_setRegs {s t : State} (h : t.regs = s.regs) (v : Byte) :
    t.setThreshold v = t.setRegs (s.setThreshold v).regs := by
  simp only [State.setThreshold, State.setRegs, h]

section DitherMode

variable {s : State} (hd : s.regs.dither = true) (v : Byte)

include hd

theorem sameBinarization_setThreshold : SameBinarization s.regs (s.setThreshold v).regs :=
  ⟨rfl, rfl, rfl, rfl, rfl, fun hd' => absurd (hd.symm.trans hd') nofun⟩

theorem binarizeBody_setThreshold : binarizeBody (s.setThreshold v) = (binarizeBody s).setThreshold v := by
  rw [setThreshold_eq_setRegs (binarizeBody_regs s)]
  exact binarizeBody_setRegs (sameBinarization_setThreshold hd v)

theorem binarized_setThreshold : binarized (s.setThreshold v) = (binarized s).setThreshold v := by
  rw [setThreshold_eq_setRegs (binarized_regs s)]
  exact binarized_setRegs (sameBinarization_setThreshold hd v)

theorem frameBody_convert_setThreshold :
    frameBody .convert (s.setThreshold v) = (frameBody .convert s).setThreshold v := by
  have hbody : convertBody (s.setThreshold v) = (convertBody s).setThreshold v := by
    rw [convertBody_eq, convertBody_eq, binarized_setThreshold hd, step7_setThreshold]
    rfl
  rw [frameBody_convert, frameBody_convert, hbody, sizeCheck_setThreshold]

end DitherMode

/-! ## The other inversion flag (41_tone_binarize.md R102) -/

/-- `s` with MODE.INVERT = 1. -/
def State.setInvert (s : State) : State := { s with regs := { s.regs with invert := true } }

/-- The picture is decided before step 7 and does not depend on MODE.INVERT; step 7 complements it. -/
theorem monoAt_step7_setInvert {s : State} (h : s.regs.invert = false) {i : Nat} (hi : i < s.w * s.h) :
    (step7 (binarized s.setInvert)).monoAt i = !(step7 (binarized s)).monoAt i := by
  have hdecided : binarized s.setInvert = (binarized s).setRegs s.setInvert.regs :=
    binarized_setRegs ⟨rfl, rfl, rfl, rfl, rfl, fun _ => rfl⟩
  rw [hdecided, step7_of_invert rfl, State.monoAt_invertBody, step7_of_not_invert (by rwa [binarized_regs])]
  exact if_pos hi

/-! ## The obligations -/

/-- Settles O32: no guard reads THRESHOLD, and in dither mode no body does. -/
theorem ditherIgnoresTheThreshold : Obligations.DitherIgnoresTheThreshold := by
  have follows : ∀ {i : Instr} {s : State} {v : Byte}, isFrame i = true →
      frameBody i (s.setThreshold v) = (frameBody i s).setThreshold v →
      ∃ t, exec i s = .next t ∧ exec i (s.setThreshold v) = .next (t.setThreshold v) := fun hi hbody =>
    ⟨_, exec_eq_frameCommand hi _, by rw [exec_eq_frameCommand hi, frameCommand_setThreshold hbody]⟩
  rintro i s v (rfl | ⟨rfl | rfl, hd⟩)
  · exact follows rfl rfl
  · exact follows rfl (binarizeBody_setThreshold hd v)
  · exact follows rfl (frameBody_convert_setThreshold hd v)

/-- Settles O40: both runs decide the same picture, MODE.INVERT complements it, and packing adds clear pad bits. -/
theorem inversionComplementsThePackedPicture : Obligations.InversionComplementsThePackedPicture := by
  intro s hready hinvert
  have hready' : s.setInvert.ready := hready
  refine ⟨_, _, exec_of_ready rfl hready, exec_of_ready rfl hready', fun y hy c hc k hk => ?_⟩
  have hbit := frameBody_convert_packedAs s y hy c hc k hk
  have hbit' := frameBody_convert_packedAs s.setInvert y hy c hc k hk
  refine ⟨fun hx => ?pixel, fun hx => ?pad⟩
  case pixel =>
    calc _ = (step7 (binarized s.setInvert)).monoAt (px s.w (8 * c + k) y) := hbit'.trans (if_pos hx)
      _ = !(step7 (binarized s)).monoAt (px s.w (8 * c + k) y) := monoAt_step7_setInvert hinvert (px_lt hx hy)
      _ = _ := congrArg _ (hbit.trans (if_pos hx)).symm
  case pad => exact ⟨hbit.trans (if_neg hx.not_gt), hbit'.trans (if_neg hx.not_gt)⟩

/-- Settles O41: at 1.0 no tone step runs, no sample 128 is below the threshold 128, and white packs to 0 bytes. -/
theorem midGrayConvertsToWhite : Obligations.MidGrayConvertsToWhite := by
  intro s hready hcontrast hbright hthreshold hdither hinvert hlen hgray
  have hbinarized : step7 (binarized s) = binThrBody s := by
    have h4 : step4 s = s := if_neg (not_not.mpr hcontrast)
    have h5 : step5 s = s := if_neg (not_not.mpr hbright)
    rw [binarized, h4, h5, binarizeBody_of_threshold hdither, step7_of_not_invert (s := binThrBody s) hinvert]
  have hbody : frameBody .convert s = packBody (binThrBody s) := by
    rw [frameBody_convert, convertBody_eq, hbinarized, sizeCheck_of_eq (s := packBody (binThrBody s)) hlen]
  have hwhite : ∀ i, i < s.w * s.h → (binThrBody s).monoAt i = false := by
    intro i hi
    rw [← Bool.not_eq_true, monoAt_binThrBody_iff s hi, hgray i hi, hthreshold]
    exact lt_irrefl _
  refine ⟨packBody (binThrBody s), hbody ▸ exec_of_ready rfl hready, rfl, hwhite, fun i hi => ?zero⟩
  case zero =>
    refine eq_of_same_bits (b := fun _ => 0) (fun y hy c hc k hk => ?_) hi
    refine (packBody_packedAs (binThrBody s) y hy c hc k hk).trans (Eq.trans ?_ BitVec.getLsbD_zero.symm)
    split_ifs with hx
    · exact hwhite _ (px_lt hx hy)
    · rfl

end Sys2Proof.Machine
end

section
/-! PROOFS. The pipeline, the length check, the serializer and housekeeping (42_pipeline_serializer.md): what each
command leaves. CONVERT is read off its steps: steps 4 and 5 make GRAY, 6 and 7 MONO, 8 PACKED, 9 the registers. -/

namespace Sys2Proof.Machine

open Sys2Proof.Spec

/-! ## Housekeeping (42_pipeline_serializer.md R119, R121, R160) -/

/-- Line 2 of 60_exceptions.md R158, for every command. -/
theorem exec_of_fault {i : Instr} (hi : i ≠ .reset) {s : State} (hf : s.regs.fault ≠ .none) :
    exec i s = .next s := by
  cases hframe : isFrame i with
  | true => rw [exec_eq_frameCommand hframe, frameCommand_of_fault hf]
  | false =>
    obtain rfl | rfl | rfl := exec_nonframe hframe
    · exact exec_nop s
    · rw [exec_verify, unlessFaulted_of_fault hf]
    · exact absurd rfl hi

/-- Settles O3: RESET recovers in every state, and every other command is refused while a fault stands. -/
theorem resetCommandRestoresRegisters : Obligations.ResetCommandRestoresRegisters :=
  ⟨decode_encode .reset, exec_reset, fun _ _ hi hf => exec_of_fault hi hf⟩

/-- Settles O4: the refused NOP and the executed one do the same. -/
theorem nopChangesNothing : Obligations.NopChangesNothing := ⟨decode_encode .nop, exec_nop⟩

/-! ## The length check (42_pipeline_serializer.md R114) -/

section LengthCheck

variable {s : State} (h : s.plen ≠ s.regs.expLen.toNat)

include h

theorem sizeCheck_of_ne_fault {kind : CheckKind} (hk : kind = .pattern ∨ s.regs.strict = true) (cmd : Word) :
    s.sizeCheck kind cmd = s.raiseFault .sizeMismatch cmd := by
  rcases sizeCheck_cases kind cmd s with ⟨heq, -⟩ | ⟨-, -, e⟩ | ⟨-, rfl, hs, -⟩
  · exact absurd heq h
  · exact e
  · simp [hs] at hk

theorem sizeCheck_of_ne_warn (hs : s.regs.strict = false) (cmd : Word) :
    s.sizeCheck .converter cmd = s.warnSizeMismatch := by
  rcases sizeCheck_cases .converter cmd s with ⟨heq, -⟩ | ⟨-, hk, -⟩ | ⟨-, -, -, e⟩
  · exact absurd heq h
  · simp [hs] at hk
  · exact e

end LengthCheck

/-- Settles O42: with no fault standing VERIFY is the length check, in its three cases. -/
theorem verifyComparesTheLengths : Obligations.VerifyComparesTheLengths := by
  refine ⟨decode_encode .verify, fun s hf => ?_⟩
  rw [exec_verify, unlessFaulted_of_none hf]
  exact ⟨fun heq => congrArg _ (sizeCheck_of_eq heq _ _), fun hne =>
    ⟨fun hs => congrArg _ (sizeCheck_of_ne_fault hne (.inr hs) _),
      fun hs => congrArg _ (sizeCheck_of_ne_warn hne hs _)⟩⟩

/-! ## The serializer (42_pipeline_serializer.md R116) -/

/-- Settles O43: the body of STREAM emits the packed frame, which is the list of the active PACKED cells. -/
theorem streamEmitsTheFrameInOrder : Obligations.StreamEmitsTheFrameInOrder :=
  frameCommandRule_of_frameBody rfl rfl fun s _ => ⟨rfl, congrArg (s.out ++ ·) s.packedFrame_eq⟩

/-! ## Each step of the pipeline writes one memory (42_pipeline_serializer.md R110) -/

theorem step4_eq (s : State) : step4 s = { s with gray := (step4 s).gray } := by
  unfold step4
  split <;> rfl

theorem step5_eq (s : State) : step5 s = { s with gray := (step5 s).gray } := by
  unfold step5
  split <;> rfl

theorem step7_eq (s : State) : step7 s = { s with mono := (step7 s).mono } := by
  unfold step7
  split <;> rfl

/-- Steps 4 and 5 of the pipeline: the frame adjusted by contrast and then brightness. -/
def toned (s : State) : State := step5 (step4 s)

@[simp] theorem toned_regs (s : State) : (toned s).regs = s.regs := by simp [toned]

theorem toned_eq (s : State) : toned s = { s with gray := (toned s).gray } := by
  rw [toned, step5_eq, step4_eq]

theorem binarized_eq (s : State) :
    binarized s = { s with gray := (toned s).gray, mono := (binarized s).mono } := by
  change binarizeBody (toned s) = { s with gray := (toned s).gray, mono := (binarizeBody (toned s)).mono }
  rw [binarizeBody_eq, toned_eq]

/-- CONVERT leaves in GRAY what steps 4 and 5 leave there, in MONO what step 7 does and in PACKED what step 8 does. -/
theorem frameBody_convert_eq (s : State) :
    frameBody .convert s = { s with
      regs := (frameBody .convert s).regs
      gray := (toned s).gray
      mono := (step7 (binarized s)).mono
      packed := (convertBody s).packed } := by
  have hbody : convertBody s = { s with
      gray := (toned s).gray, mono := (step7 (binarized s)).mono, packed := (convertBody s).packed } := by
    rw [convertBody_eq, packBody_eq, step7_eq, binarized_eq]
  rw [frameBody_convert, sizeCheck_eq_regs]
  exact congrArg (State.setRegs · _) hbody

/-- The active area depends on the registers alone. -/
theorem active_congr {s t : State} (h : t.regs = s.regs) : t.w * t.h = s.w * s.h := by
  rw [State.w_congr h, State.h_congr h]

/-! ## What CONVERT leaves, cell by cell and in the registers -/

section Convert

variable (s : State)

theorem grayAt_frameBody_convert : (frameBody .convert s).grayAt = (toned s).grayAt := by
  rw [frameBody_convert_eq, toned_eq]
  rfl

theorem monoAt_frameBody_convert : (frameBody .convert s).monoAt = (step7 (binarized s)).monoAt := by
  rw [frameBody_convert_eq, step7_eq, binarized_eq]
  rfl

variable {i : Nat} (hi : i < s.w * s.h)

include hi

/-- At 1.0 the step is left out, and the sample map is the identity. -/
theorem grayAt_step4 : (step4 s).grayAt i = contrastSample s.regs.contrast (s.grayAt i) := by
  unfold step4
  split
  · exact grayAt_adjcBody_active s hi
  next hone => rw [not_not.mp hone, contrastSample_one]

/-- At 1.0 the step is left out, and the sample map is the identity. -/
theorem grayAt_step5 : (step5 s).grayAt i = brightSample s.regs.bright (s.grayAt i) := by
  unfold step5
  split
  · exact grayAt_adjbBody_active s hi
  next hone => rw [not_not.mp hone, brightSample_one]

theorem monoAt_step7 : (step7 s).monoAt i = (s.regs.invert ^^ s.monoAt i) := by
  cases hinvert : s.regs.invert with
  | true => rw [step7_of_invert hinvert, State.monoAt_invertBody, if_pos hi, Bool.true_xor]
  | false => rw [step7_of_not_invert hinvert, Bool.false_xor]

theorem toNat_grayAt_frameBody_convert : (((frameBody .convert s).grayAt i).toNat : Int) =
    bright s.regs.bright.toNat (contrast s.regs.contrast.toNat (s.grayAt i).toNat) := by
  have hi4 : i < (step4 s).w * (step4 s).h := by rwa [active_congr (step4_regs s)]
  rw [grayAt_frameBody_convert, toned, grayAt_step5 _ hi4, step4_regs, grayAt_step4 s hi, toNat_brightSample,
    toNat_contrastSample]

/-- Step 7 inverts, if requested, the decision of step 6. -/
theorem monoAt_frameBody_convert_active :
    (frameBody .convert s).monoAt i = (s.regs.invert ^^ (binarizeBody (toned s)).monoAt i) := by
  have hregs := binarized_regs s
  have hi6 : i < (binarized s).w * (binarized s).h := by rwa [active_congr hregs]
  rw [monoAt_frameBody_convert, monoAt_step7 _ hi6, hregs]
  rfl

end Convert

theorem frameBody_convert_packs_mono (s : State) :
    PackedAs s.w s.h (fun x y => (frameBody .convert s).monoAt (px s.w x y)) (frameBody .convert s).packedAt := by
  rw [monoAt_frameBody_convert]
  exact frameBody_convert_packedAs s

/-- The three outcomes of step 9, the length check, in the registers. -/
theorem frameBody_convert_regs (s : State) :
    (s.plen = s.regs.expLen.toNat → (frameBody .convert s).regs = s.regs) ∧
    (s.plen ≠ s.regs.expLen.toNat → s.regs.strict = true →
      (frameBody .convert s).regs = { s.regs with fault := .sizeMismatch, faultInfo := 0x00000020 }) ∧
    (s.plen ≠ s.regs.expLen.toNat → s.regs.strict = false →
      (frameBody .convert s).regs = { s.regs with warnSize := true }) := by
  have hregs := convertBody_regs s
  rw [frameBody_convert, ← State.plen_congr hregs, ← hregs]
  exact ⟨fun heq => congrArg _ (sizeCheck_of_eq heq _ _),
    fun hne hs => congrArg _ (sizeCheck_of_ne_fault hne (.inr hs) _),
    fun hne hs => congrArg _ (sizeCheck_of_ne_warn hne hs _)⟩

/-- The frame of CONVERT. -/
theorem frameBody_convert_frame (s : State) : frameBody .convert s = { s with
    regs := (frameBody .convert s).regs
    gray := (frameBody .convert s).gray
    mono := (frameBody .convert s).mono
    packed := (frameBody .convert s).packed } := by
  rw [frameBody_convert_eq]

/-- Settles O37: each step's cells, the decision of step 6 being that of the threshold on the adjusted samples. -/
theorem convertInThresholdMode : Obligations.ConvertInThresholdMode := by
  intro s hready hdither
  have draws := frameBody_draws s (i := .convert) nofun
  refine ⟨frameBody .convert s, exec_of_ready rfl hready, frameBody_convert_frame s,
    fun i hi => ⟨toNat_grayAt_frameBody_convert s hi, ?black⟩, draws.gray, draws.mono, draws.packed,
    frameBody_convert_packs_mono s, frameBody_convert_regs s⟩
  case black =>
    have hregs := toned_regs s
    have hi5 : i < (toned s).w * (toned s).h := by rwa [active_congr hregs]
    rw [monoAt_frameBody_convert_active s hi, binarizeBody_of_threshold (by rwa [hregs]), State.monoAt_binThrBody,
      if_pos hi5, hregs, grayAt_frameBody_convert]
    rfl

/-- Settles O38: each step's cells, step 6 solving the equations on the adjusted samples; inverting twice is no
change. -/
theorem convertInDitherMode : Obligations.ConvertInDitherMode := by
  intro s hready hdither
  have draws := frameBody_draws s (i := .convert) nofun
  refine ⟨frameBody .convert s, exec_of_ready rfl hready, frameBody_convert_frame s,
    fun i hi => toNat_grayAt_frameBody_convert s hi, ?diffused, draws.gray, draws.mono, draws.packed,
    frameBody_convert_packs_mono s, frameBody_convert_regs s⟩
  case diffused =>
    have hregs := toned_regs s
    have hsolved := binFsBody_diffused (toned s)
    rw [State.w_congr hregs, State.h_congr hregs, ← grayAt_frameBody_convert] at hsolved
    refine diffused_congr hsolved fun y hy x hx => ?_
    rw [monoAt_frameBody_convert_active s (px_lt hx hy), binarizeBody_of_dither (by rwa [hregs]),
      ← Bool.xor_assoc, Bool.xor_self, Bool.false_xor]

end Sys2Proof.Machine
end

section
/-! PROOFS. CONVERT and the script of single commands that stands for it (42_pipeline_serializer.md R112). A command
neither reads nor writes the host's record, so a script of commands has the effect of the commands one after
another; on a ready state each of them is its body, and the bodies of the script make up that of CONVERT. -/

namespace Sys2Proof.Machine

open Sys2Proof.Spec

/-! ## Commands and the host's record (the model's own fields, log entries 3 and 5) -/

/-- `s` with another script and other answers. -/
def State.withRecord (s : State) (script : List HostMove) (answers : List Answer) : State :=
  { s with script := script, answers := answers }

@[simp] theorem State.withRecord_regs (s : State) (ms : List HostMove) (as : List Answer) :
    (s.withRecord ms as).regs = s.regs := rfl

section Record

variable (s : State) (ms : List HostMove) (as : List Answer)

theorem sizeCheck_withRecord (kind : CheckKind) (cmd : Word) :
    (s.withRecord ms as).sizeCheck kind cmd = (s.sizeCheck kind cmd).withRecord ms as := by
  rcases sizeCheck_cases kind cmd s with ⟨heq, e⟩ | ⟨hne, hk, e⟩ | ⟨hne, rfl, hs, e⟩ <;> rw [e]
  · exact sizeCheck_of_eq (s := s.withRecord ms as) heq kind cmd
  · exact sizeCheck_of_ne_fault (s := s.withRecord ms as) hne hk cmd
  · exact sizeCheck_of_ne_warn (s := s.withRecord ms as) hne hs cmd

theorem step4_withRecord : step4 (s.withRecord ms as) = (step4 s).withRecord ms as :=
  (apply_ite (State.withRecord · ms as) (s.regs.contrast ≠ one88) (adjcBody s) s).symm

theorem step5_withRecord : step5 (s.withRecord ms as) = (step5 s).withRecord ms as :=
  (apply_ite (State.withRecord · ms as) (s.regs.bright ≠ one88) (adjbBody s) s).symm

theorem binarizeBody_withRecord : binarizeBody (s.withRecord ms as) = (binarizeBody s).withRecord ms as :=
  (apply_ite (State.withRecord · ms as) (s.regs.dither = true) (binFsBody s) (binThrBody s)).symm

theorem step7_withRecord : step7 (s.withRecord ms as) = (step7 s).withRecord ms as :=
  (apply_ite (State.withRecord · ms as) (s.regs.invert = true) (invertBody s) s).symm

theorem convertBody_withRecord : convertBody (s.withRecord ms as) = (convertBody s).withRecord ms as := by
  rw [convertBody, step4_withRecord, step5_withRecord, binarizeBody_withRecord, step7_withRecord]
  rfl

theorem frameBody_withRecord (i : Instr) : frameBody i (s.withRecord ms as) = (frameBody i s).withRecord ms as := by
  cases i with
  | nop | verify | reset | pack | unpack | adjc | adjb | binThr | binFs | invert | stream => rfl
  | binarize => exact binarizeBody_withRecord s ms as
  | convert => rw [frameBody_convert, convertBody_withRecord, sizeCheck_withRecord, frameBody_convert]
  | patWhite | patBlack | patChecker | patStripesH | patStripesV | patGradient | patBorder | patGrid
  | patSplit | patText => exact sizeCheck_withRecord (patBody _ s) ms as .pattern _

theorem unlessFaulted_withRecord {body : State → State}
    (hbody : body (s.withRecord ms as) = (body s).withRecord ms as) :
    unlessFaulted body (s.withRecord ms as) = (unlessFaulted body s).withRecord ms as := by
  rcases unlessFaulted_cases body s with ⟨hf, e⟩ | ⟨hf, e⟩ <;> rw [e]
  · rw [unlessFaulted_of_none (s := s.withRecord ms as) hf, hbody]
  · exact unlessFaulted_of_fault (s := s.withRecord ms as) hf body

theorem frameCommand_withRecord (i : Instr) (cmd : Word) :
    frameCommand cmd (frameBody i) (s.withRecord ms as) = (frameCommand cmd (frameBody i) s).withRecord ms as := by
  refine unlessFaulted_withRecord s ms as ?_
  rw [frameBody_withRecord]
  exact (apply_ite (State.withRecord · ms as) (s.badDims = true) (s.raiseFault .badDim cmd) (frameBody i s)).symm

/-- A command neither reads nor writes the host's record. -/
theorem exec_withRecord {i : Instr} {t : State} (h : exec i s = .next t) :
    exec i (s.withRecord ms as) = .next (t.withRecord ms as) := by
  cases hi : isFrame i with
  | true =>
    rw [exec_eq_frameCommand hi] at h ⊢
    cases h
    rw [frameCommand_withRecord]
  | false =>
    obtain rfl | rfl | rfl := exec_nonframe hi
    · rw [exec_nop] at h ⊢
      cases h
      rfl
    · rw [exec_verify] at h ⊢
      cases h
      exact congrArg _ (unlessFaulted_withRecord s ms as (sizeCheck_withRecord s ms as _ _))
    · rw [exec_reset] at h ⊢
      cases h
      rfl

end Record

/-! ## A script of commands as a step and as a run -/

/-- The state that the command `i` leaves; there always is one (`exec_next`). -/
def State.after (s : State) (i : Instr) : State :=
  match exec i s with
  | .next t => t
  | _ => s

theorem after_of_exec {i : Instr} {s t : State} (h : exec i s = .next t) : s.after i = t := by
  rw [State.after, h]

theorem exec_eq_after (i : Instr) (s : State) : exec i s = .next (s.after i) := by
  obtain ⟨t, h⟩ := exec_next i s
  rw [h, after_of_exec h]

theorem step_command (s : State) (i : Instr) (ms : List HostMove) (as : List Answer) :
    step (s.withRecord (Script.command i :: ms) as) = .next ((s.after i).withRecord ms (as ++ [.done])) := by
  have hexec : exec i (s.withRecord ms (as ++ [.done])) = _ := exec_withRecord s ms _ (exec_eq_after i s)
  exact (stepRunsTheDecodedCommand (s.withRecord ms as) (encode i) ms i (decode_encode i)).trans hexec

theorem run_succ {s t : State} (h : step s = .next t) (k : Nat) :
    Sys2Proof.core.run (k + 1) s = Sys2Proof.core.run k t := by
  have hstep : Sys2Proof.core.step s = .next t := h
  simp only [Host.Core.run, hstep]

/-- A run of a script of commands has the effect of the commands one after another, each answered. -/
theorem run_commands (is : List Instr) (s : State) (as : List Answer) :
    Sys2Proof.core.run is.length (s.withRecord (is.map Script.command) as) =
      .next ((is.foldl State.after s).withRecord [] (as ++ List.replicate is.length .done)) := by
  induction is generalizing s as with
  | nil => simp [Host.Core.run]
  | cons i is ih =>
    rw [List.map_cons, List.length_cons, run_succ (step_command s i _ as), ih, List.foldl_cons, List.replicate_succ,
      List.append_assoc, List.singleton_append]

/-! ## What a command leaves, by its guards -/

section After

variable {s : State} {i : Instr}

theorem after_of_ready (hi : isFrame i = true) (h : s.ready) : s.after i = frameBody i s :=
  after_of_exec (exec_of_ready hi h)

theorem after_of_invalid (hi : isFrame i = true) (hf : s.regs.fault = .none) (hd : ¬ s.validDims) :
    s.after i = s.raiseFault .badDim (encode i) :=
  after_of_exec (by rw [exec_eq_frameCommand hi, frameCommand_of_invalid hf hd])

theorem after_verify (hf : s.regs.fault = .none) : s.after .verify = s.sizeCheck .converter (encode .verify) :=
  after_of_exec (by rw [exec_verify, unlessFaulted_of_none hf])

/-- After a fault a script without RESET does nothing. -/
theorem foldl_after_of_fault (hf : s.regs.fault ≠ .none) {is : List Instr} (his : .reset ∉ is) :
    is.foldl State.after s = s := by
  induction is with
  | nil => rfl
  | cons i is ih =>
    obtain ⟨hi, his⟩ := not_or.mp (mt List.mem_cons.mpr his)
    rw [List.foldl_cons, after_of_exec (exec_of_fault (Ne.symm hi) hf), ih his]

/-- A command that the script has only if `c` holds is a step that the pipeline leaves out if it does not. -/
theorem foldl_after_optional (hi : isFrame i = true) (h : s.ready) (c : Prop) [Decidable c] :
    (if c then [i] else []).foldl State.after s = if c then frameBody i s else s := by
  split_ifs
  · exact after_of_ready hi h
  · rfl

theorem foldl_after_unless (hi : isFrame i = true) (h : s.ready) (c : Prop) [Decidable c] :
    (if c then [] else [i]).foldl State.after s = if ¬ c then frameBody i s else s := by
  rw [← ite_not c]
  exact foldl_after_optional hi h _

end After

/-! ## The commands that stand for CONVERT -/

/-- The commands of `convertScript`. -/
def convertCommands (s : State) : List Instr :=
  (if s.regs.contrast = 0x0100 then [] else [.adjc]) ++
    ((if s.regs.bright = 0x0100 then [] else [.adjb]) ++
      (.binarize :: ((if s.regs.invert = true then [.invert] else []) ++ [.pack, .verify])))

theorem convertScript_eq (s : State) : convertScript s = (convertCommands s).map Script.command := by
  unfold convertScript convertCommands
  split_ifs <;> rfl

theorem reset_notMem_convertCommands (s : State) : .reset ∉ convertCommands s := by
  unfold convertCommands
  split_ifs <;> decide

theorem convertCommands_eq_cons (s : State) :
    ∃ i is, convertCommands s = i :: is ∧ isFrame i = true ∧ encode i = convertScriptFirst s := by
  unfold convertCommands convertScriptFirst
  split_ifs <;> exact ⟨_, _, rfl, rfl, rfl⟩

theorem ready_congr {s t : State} (hr : t.regs = s.regs) (hp : t.params = s.params) (h : s.ready) : t.ready := by
  unfold State.ready State.validDims at *
  rwa [State.w_congr hr, State.h_congr hr, hr, hp]

/-- On a ready state each command is its body, and they are the steps 4 to 8 of CONVERT and the length check. -/
theorem foldl_convertCommands {s : State} (h : s.ready) :
    (convertCommands s).foldl State.after s = (convertBody s).sizeCheck .converter (encode .verify) := by
  have keep4 := step4_keeps s
  have keep5 : BodyKeeps s (toned s) := keep4.trans (step5_keeps _)
  have keep6 : BodyKeeps s (binarized s) := keep5.trans (binarizeBody_keeps _)
  have keep7 : BodyKeeps s (step7 (binarized s)) := keep6.trans (step7_keeps _)
  have hcontrast : (if s.regs.contrast = 0x0100 then [] else [.adjc]).foldl State.after s = step4 s :=
    foldl_after_unless rfl h _
  have hbright : (if s.regs.bright = 0x0100 then [] else [.adjb]).foldl State.after (step4 s) = toned s := by
    rw [← step4_regs s]
    exact foldl_after_unless rfl (ready_congr (step4_regs s) keep4.params h) _
  have hbinarize : (toned s).after .binarize = binarized s :=
    after_of_ready rfl (ready_congr (toned_regs s) keep5.params h)
  have hinvert : (if s.regs.invert = true then [.invert] else []).foldl State.after (binarized s) =
      step7 (binarized s) := by
    rw [← binarized_regs s]
    exact foldl_after_optional rfl (ready_congr (binarized_regs s) keep6.params h) _
  have hpack : (step7 (binarized s)).after .pack = convertBody s :=
    after_of_ready rfl (ready_congr (by simp) keep7.params h)
  have hverify : (convertBody s).after .verify = _ := after_verify (by rw [convertBody_regs, h.1])
  simp only [convertCommands, List.foldl_append, List.foldl_cons, List.foldl_nil]
  rw [hcontrast, hbright, hbinarize, hinvert, hpack, hverify]

/-- With invalid dimensions the first command enters the fault and the others are refused. -/
theorem foldl_convertCommands_of_invalid {s : State} (hf : s.regs.fault = .none) (hd : ¬ s.validDims) :
    (convertCommands s).foldl State.after s = s.raiseFault .badDim (convertScriptFirst s) := by
  obtain ⟨i, is, hcons, hi, hfirst⟩ := convertCommands_eq_cons s
  have hreset : .reset ∉ is := fun hmem => reset_notMem_convertCommands s (hcons ▸ List.mem_cons_of_mem i hmem)
  have hfault : (s.raiseFault .badDim (encode i)).regs.fault ≠ .none := nofun
  rw [hcons, List.foldl_cons, after_of_invalid hi hf hd, foldl_after_of_fault hfault hreset, hfirst]

/-- Settles O39: both runs come down to a length check of the same state, or to BAD_DIM, which differ in the word
that they record. -/
theorem convertEqualsTheSingleCommands : Obligations.ConvertEqualsTheSingleCommands := by
  intro s hf
  rw [convertScript_eq, List.length_map]
  refine ⟨_, _, run_commands (convertCommands s) s s.answers, step_command s .convert [] s.answers, ?_⟩
  by_cases hd : s.validDims
  case neg =>
    rw [foldl_convertCommands_of_invalid hf hd, after_of_invalid (i := .convert) rfl hf hd]
    exact ⟨rfl, rfl, rfl, rfl, rfl, fun h => absurd h hd, fun h => absurd h hd, fun _ => ⟨rfl, rfl, rfl⟩⟩
  case pos =>
    have hnone : (convertBody s).regs.fault = .none := by rw [convertBody_regs, hf]
    rw [foldl_convertCommands ⟨hf, hd⟩, after_of_ready (i := .convert) rfl ⟨hf, hd⟩, frameBody_convert]
    rcases sizeCheck_cases .converter (encode .verify) (convertBody s) with
      ⟨heq, e⟩ | ⟨hne, hk, e⟩ | ⟨hne, -, hs, e⟩ <;> rw [e]
    · rw [sizeCheck_of_eq heq]
      exact ⟨rfl, rfl, rfl, rfl, rfl, fun _ _ => rfl, fun _ h => absurd (hnone.symm.trans h) nofun,
        fun h => absurd hd h⟩
    · rw [sizeCheck_of_ne_fault hne hk]
      exact ⟨rfl, rfl, rfl, rfl, rfl, fun _ h => absurd rfl h, fun _ _ => ⟨rfl, rfl⟩, fun h => absurd hd h⟩
    · rw [sizeCheck_of_ne_warn hne hs]
      exact ⟨rfl, rfl, rfl, rfl, rfl, fun _ _ => rfl, fun _ h => absurd (hnone.symm.trans h) nofun,
        fun h => absurd hd h⟩

end Sys2Proof.Machine
end

section
/-! PROOFS. The pattern generator (43_patterns.md): what the common body of R126 leaves for any predicate, the rule
that every PAT command follows from it, and the bytes of the patterns that are decided once per byte group. -/

namespace Sys2Proof.Machine

open Sys2Proof.Spec

/-! ## The length check keeps every cell (42_pipeline_serializer.md R114) -/

theorem monoAt_sizeCheck (kind : CheckKind) (cmd : Word) (s : State) : (s.sizeCheck kind cmd).monoAt = s.monoAt := by
  rw [sizeCheck_eq_regs]
  rfl

theorem packedAt_sizeCheck (kind : CheckKind) (cmd : Word) (s : State) :
    (s.sizeCheck kind cmd).packedAt = s.packedAt := by
  rw [sizeCheck_eq_regs]
  rfl

/-! ## What the body of a PAT command leaves (43_patterns.md R126) -/

/-- The command `i` is the PAT command with predicate `p`. -/
structure PatternCommand (i : Instr) (p : Nat → Nat → Nat → Nat → Bool) : Prop where
  frame : isFrame i = true
  body : ∀ s, frameBody i s = (patBody p s).sizeCheck .pattern (encode i)

section Body

variable (p : Nat → Nat → Nat → Nat → Bool) (s : State)

theorem monoAt_patBody_px {x y : Nat} (hx : x < s.w) (hy : y < s.h) :
    (patBody p s).monoAt (px s.w x y) = p s.w s.h x y := by
  change (s.putMono (raster s.w s.h (p s.w s.h))).monoAt (px s.w x y) = _
  rw [State.monoAt_putMono, dif_pos (by rw [length_raster]; exact px_lt hx hy), getElem_raster, px_mod hx, px_div hx]

theorem patBody_packs_mono :
    PackedAs s.w s.h (fun x y => (patBody p s).monoAt (px s.w x y)) (patBody p s).packedAt :=
  packBody_packedAs (s.putMono (raster s.w s.h (p s.w s.h)))

end Body

/-- The rule of a PAT command follows from the meaning of its predicate alone; the common body does the rest. -/
theorem PatternCommand.rule {i : Instr} {p : Nat → Nat → Nat → Nat → Bool} (hi : PatternCommand i p) {word : Word}
    (hword : encode i = word) {P : Nat → Nat → Nat → Nat → Prop}
    (hp : ∀ w h x y, p w h x y = true ↔ P w h x y) : Pattern i word P := by
  refine frameCommandRule_of_frameBody hi.frame hword fun s _ => ?_
  subst hword
  have draws := (patBody_draws s p).sizeCheck .pattern (encode i)
  rw [hi.body, monoAt_sizeCheck, packedAt_sizeCheck]
  refine ⟨?frame, ?black, patBody_packs_mono p s, draws.mono, draws.packed, ?fits, ?mismatch⟩
  case frame =>
    rw [sizeCheck_eq_regs]
    rfl
  case black =>
    intro y hy x hx
    exact (Bool.eq_iff_iff.mp (monoAt_patBody_px p s hx hy)).trans (hp s.w s.h x y)
  case fits =>
    intro heq
    rw [sizeCheck_of_eq (s := patBody p s) heq, patBody_regs]
  case mismatch =>
    intro hne
    rw [sizeCheck_of_ne_fault (s := patBody p s) hne (.inl rfl), State.raiseFault_regs, patBody_regs]

/-! ## The two predicates with signed comparisons (43_patterns.md R133, R136) -/

theorem patBorder_iff (w h x y : Nat) :
    patBorder w h x y = true ↔ x < 20 ∨ w ≤ x + 20 ∨ y < 20 ∨ h ≤ y + 20 := by
  simp only [patBorder, decide_eq_true_iff]
  omega

theorem patText_iff (w h x y : Nat) : patText w h x y = true ↔
    h / 2 ≤ y + 50 ∧ y + 50 < h / 2 + 100 ∧ w / 2 ≤ x + 200 ∧ x + 200 < w / 2 + 400 ∧
      (x + 200 - w / 2) % 100 < 80 := by
  simp only [patText, decide_eq_true_iff]
  omega

/-! ## Patterns that are decided once per byte group (43_patterns.md R137) -/

/-- All pixels of a byte group take the decision of the group's first pixel. -/
def GroupUniform (p : Nat → Nat → Nat → Nat → Bool) : Prop := ∀ w h x y, p w h x y = p w h (groupStart x) y

theorem groupStart_div (x : Nat) : groupStart x / 8 = x / 8 := Nat.mul_div_cancel_left _ (by decide)

theorem groupStart_lane (c : Nat) {k : Nat} (hk : k < 8) : groupStart (8 * c + k) = 8 * c := by
  unfold groupStart
  omega

theorem groupStart_groupStart (x : Nat) : groupStart (groupStart x) = groupStart x :=
  congrArg (8 * ·) (groupStart_div x)

theorem patChecker_groupUniform : GroupUniform patChecker := fun w h x y => by
  simp only [patChecker, groupStart_div]

theorem patStripesV_groupUniform : GroupUniform patStripesV := fun w h x y => by
  simp only [patStripesV, groupStart_groupStart]

theorem patSplit_groupUniform : GroupUniform patSplit := fun w h x y => by
  simp only [patSplit, groupStart_groupStart]

/-- The six patterns of R137; the decisions of WHITE, BLACK and STRIPES_H do not depend on the column at all. -/
theorem exists_groupUniform {i : Instr}
    (hi : i ∈ [Instr.patWhite, .patBlack, .patChecker, .patStripesH, .patStripesV, .patSplit]) :
    ∃ p, PatternCommand i p ∧ GroupUniform p := by
  simp only [List.mem_cons, List.not_mem_nil, or_false] at hi
  rcases hi with rfl | rfl | rfl | rfl | rfl | rfl
  · exact ⟨patWhite, ⟨rfl, fun _ => rfl⟩, fun _ _ _ _ => rfl⟩
  · exact ⟨patBlack, ⟨rfl, fun _ => rfl⟩, fun _ _ _ _ => rfl⟩
  · exact ⟨patChecker, ⟨rfl, fun _ => rfl⟩, patChecker_groupUniform⟩
  · exact ⟨patStripesH, ⟨rfl, fun _ => rfl⟩, fun _ _ _ _ => rfl⟩
  · exact ⟨patStripesV, ⟨rfl, fun _ => rfl⟩, patStripesV_groupUniform⟩
  · exact ⟨patSplit, ⟨rfl, fun _ => rfl⟩, patSplit_groupUniform⟩

/-- Eight equal pixels make a byte of eight equal bits (30_encoding.md R69). -/
theorem byte_of_uniform_group {w h : Nat} {q : Nat → Nat → Bool} {b : Nat → Byte} (hb : PackedAs w h q b) {y c : Nat}
    (hy : y < h) (hc : 8 * c + 8 ≤ w) {v : Bool} (hv : ∀ k, k < 8 → q (8 * c + k) y = v) :
    b (bx w y c) = if v then BitVec.allOnes 8 else 0 := by
  have hcolumn : c < bpr w := by
    unfold bpr
    omega
  refine byte_ext fun k hk => ?_
  have hbit : (b (bx w y c)).getLsbD (7 - k) = v := by
    rw [← hv k hk]
    exact (hb y hy c hcolumn k hk).trans (if_pos (by omega))
  rw [hbit]
  cases v with
  | true => rw [if_pos rfl, BitVec.getLsbD_allOnes, decide_eq_true (by omega)]
  | false => simp

/-- The bytes without pad bits of a pattern that is decided once per byte group. -/
theorem patBody_whole_byte {p : Nat → Nat → Nat → Nat → Bool} (hp : GroupUniform p) (s : State) {y c : Nat}
    (hy : y < s.h) (hc : 8 * c + 8 ≤ s.w) :
    (patBody p s).packedAt (bx s.w y c) =
      if (patBody p s).monoAt (px s.w (8 * c) y) then BitVec.allOnes 8 else 0 := by
  refine byte_of_uniform_group (patBody_packs_mono p s) hy hc fun k hk => ?_
  rw [monoAt_patBody_px p s (by omega) hy, monoAt_patBody_px p s (by omega) hy, hp, groupStart_lane c hk]

/-! ## The obligations -/

/-- Settles O44: no pixel is black, and every one. -/
theorem whiteAndBlackPatterns : Obligations.WhiteAndBlackPatterns :=
  ⟨PatternCommand.rule (p := patWhite) ⟨rfl, fun _ => rfl⟩ rfl fun _ _ _ _ => iff_of_false nofun id,
    PatternCommand.rule (p := patBlack) ⟨rfl, fun _ => rfl⟩ rfl fun _ _ _ _ => iff_of_true rfl trivial⟩

/-- Settles O45: both predicates are decisions of the stated conditions. -/
theorem checkerAndHorizontalStripes : Obligations.CheckerAndHorizontalStripes :=
  ⟨PatternCommand.rule (p := patChecker) ⟨rfl, fun _ => rfl⟩ rfl fun _ _ _ _ => decide_eq_true_iff,
    PatternCommand.rule (p := patStripesH) ⟨rfl, fun _ => rfl⟩ rfl fun _ _ _ _ => decide_eq_true_iff⟩

/-- Settles O46: both predicates are decisions of the stated conditions on the group's start column. -/
theorem groupPatterns : Obligations.GroupPatterns :=
  ⟨PatternCommand.rule (p := patStripesV) ⟨rfl, fun _ => rfl⟩ rfl fun _ _ _ _ => decide_eq_true_iff,
    PatternCommand.rule (p := patSplit) ⟨rfl, fun _ => rfl⟩ rfl fun _ _ _ _ => decide_eq_true_iff⟩

/-- Settles O47: the predicate is the decision of the stated condition. -/
theorem gradientPattern : Obligations.GradientPattern :=
  PatternCommand.rule (p := patGradient) ⟨rfl, fun _ => rfl⟩ rfl fun _ _ _ _ => decide_eq_true_iff

/-- Settles O48: the signed comparisons with the right and bottom edges are moved to natural numbers. -/
theorem borderAndGridPatterns : Obligations.BorderAndGridPatterns :=
  ⟨PatternCommand.rule (p := patBorder) ⟨rfl, fun _ => rfl⟩ rfl patBorder_iff,
    PatternCommand.rule (p := patGrid) ⟨rfl, fun _ => rfl⟩ rfl fun _ _ _ _ => decide_eq_true_iff⟩

/-- Settles O49: the signed corner of the rectangle is moved to the other side of each comparison. -/
theorem textPattern : Obligations.TextPattern :=
  PatternCommand.rule (p := patText) ⟨rfl, fun _ => rfl⟩ rfl patText_iff

/-- Settles O50: the six patterns are decided once per byte group, so the eight pixels of a byte without pad bits
are all as its first one. -/
theorem groupPatternsGiveWholeBytes : Obligations.GroupPatternsGiveWholeBytes := by
  intro i s hi hready
  obtain ⟨p, hpat, hgroup⟩ := exists_groupUniform hi
  refine ⟨frameBody i s, exec_of_ready hpat.frame hready, fun y hy c hc => ?_⟩
  rw [hpat.body, monoAt_sizeCheck, packedAt_sizeCheck]
  have hbyte := patBody_whole_byte hgroup s hy hc
  cases hfirst : (patBody p s).monoAt (px s.w (8 * c) y) <;> rw [hfirst] at hbyte
  case true => exact .inl ⟨hbyte, hfirst⟩
  case false => exact .inr ⟨hbyte, hfirst⟩

end Sys2Proof.Machine
end

section
/-! PROOFS. The checks of one CMD write (60_exceptions.md sections 1 and 3): what each line of R158 makes of the
word, said once for `command`, and that DimCheck alone raises BAD_DIM. -/

namespace Sys2Proof.Machine

open Sys2Proof.Spec

/-! ## The lines of R158 -/

/-- A step with a write to CMD takes the move off the script, answers it and hands the word to the BPU. -/
theorem step_cmdWrite (s : State) (w : Word) (rest : List HostMove) :
    step { s with script := .wr 3 w :: rest } = command w (answered s rest .done) := rfl

theorem command_of_illegal {w : Word} {e : Illegal} (h : decode w = .error e) (s : State) :
    command w s = .next (illegalCommand w s) := by
  unfold command
  rw [h]

/-- Line 1: RESET recovers whatever fault stands. -/
theorem command_reset (s : State) : command (encode .reset) s = .next s.recover :=
  command_of_decode (decode_encode .reset) s

/-- Line 2: a standing fault refuses every other word, legal or not. -/
theorem command_of_fault {w : Word} (hw : w ≠ encode .reset) {s : State} (hf : s.regs.fault ≠ .none) :
    command w s = .next s := by
  cases hd : decode w with
  | ok i =>
    have hi : i ≠ .reset := by
      rintro rfl
      exact hw (eq_encode_of_decode hd)
    rw [command_of_decode hd, exec_of_fault hi hf]
  | error e => rw [command_of_illegal hd, illegalCommand, unlessFaulted_of_fault hf]

/-- Line 3: an illegal word faults. -/
theorem command_of_illegal_of_none {w : Word} {e : Illegal} (hd : decode w = .error e) {s : State}
    (hf : s.regs.fault = .none) : command w s = .next (faulted s .illegalCmd w) := by
  rw [command_of_illegal hd, illegalCommand, unlessFaulted_of_none hf]
  rfl

/-- Line 4: a frame command fails DimCheck. -/
theorem exec_of_invalid {i : Instr} (hi : isFrame i = true) {s : State} (hf : s.regs.fault = .none)
    (hd : ¬ s.validDims) : exec i s = .next (faulted s .badDim (encode i)) := by
  rw [exec_eq_frameCommand hi, frameCommand_of_invalid hf hd]
  rfl

/-! ## DimCheck alone raises BAD_DIM (60_exceptions.md R152) -/

theorem State.not_validDims_iff (s : State) : ¬ s.validDims ↔
    s.regs.width.toNat = 0 ∨ s.regs.height.toNat = 0 ∨ s.params.wmax < s.regs.width.toNat ∨
      s.params.hmax < s.regs.height.toNat := by
  unfold State.validDims State.w State.h
  omega

theorem sizeCheck_fault_ne_badDim (kind : CheckKind) (cmd : Word) {s : State} (h : s.regs.fault ≠ .badDim) :
    (s.sizeCheck kind cmd).regs.fault ≠ .badDim := by
  rcases sizeCheck_cases kind cmd s with ⟨-, e⟩ | ⟨-, -, e⟩ | ⟨-, -, -, e⟩ <;> rw [e]
  · exact h
  · exact nofun
  · exact h

theorem frameBody_fault_ne_badDim (i : Instr) {s : State} (h : s.regs.fault ≠ .badDim) :
    (frameBody i s).regs.fault ≠ .badDim := by
  cases i with
  | nop | verify | reset | pack | unpack | adjc | adjb | binThr | binFs | invert | stream => exact h
  | binarize => exact (binarizeBody_regs s).symm ▸ h
  | convert => exact sizeCheck_fault_ne_badDim _ _ ((convertBody_regs s).symm ▸ h)
  | patWhite | patBlack | patChecker | patStripesH | patStripesV | patGradient | patBorder | patGrid
  | patSplit | patText => exact sizeCheck_fault_ne_badDim _ _ h

/-! ## The obligations -/

/-- Settles O10: each clause is one line of R158, and a word that is legal and passes them is executed. -/
theorem commandWriteFollowsDispatchOrder : Obligations.CommandWriteFollowsDispatchOrder := by
  intro s w rest
  rw [step_cmdWrite]
  refine ⟨?reset, fun hw hf => command_of_fault hw hf,
    fun _ hf => ⟨?illegal, ?badDim, fun _ hd _ => command_of_decode hd _⟩⟩
  case reset =>
    rintro rfl
    exact ⟨_, command_reset _, rfl, rfl⟩
  case illegal =>
    intro hillegal
    cases hd : decode w with
    | ok i => exact absurd hd (hillegal i)
    | error e => exact command_of_illegal_of_none hd hf
  case badDim =>
    intro i hd hi hdims
    rw [command_of_decode hd, eq_encode_of_decode hd]
    exact exec_of_invalid hi hf hdims

/-- Settles O9: line 3 of R158. -/
theorem illegalWordRaisesIllegalCmd : Obligations.IllegalWordRaisesIllegalCmd :=
  fun _ _ _ _ hd hf => command_of_illegal_of_none hd hf

/-- Settles O19: with bad dimensions the command stops at DimCheck; otherwise its body runs, and of what a body
contains only the length check faults, with another code. -/
theorem frameCommandsRejectBadDimensions : Obligations.FrameCommandsRejectBadDimensions := by
  intro i s hi hf
  rw [← State.not_validDims_iff]
  refine ⟨exec_of_invalid hi hf, fun hdims => ?_⟩
  have hready : s.ready := ⟨hf, not_not.mp hdims⟩
  exact ⟨_, exec_of_ready hi hready, frameBody_fault_ne_badDim i (by rw [hf]; exact nofun)⟩

end Sys2Proof.Machine
end

section
/-! PROOFS. The hardware reset as a host move (70_reset_and_hazards.md section 1): what the frame cells read as
after it, and its step. -/

namespace Sys2Proof.Machine

open Sys2Proof.Spec

/-! ## The frame cells after a hardware reset -/

theorem Memory.read_nil {α : Type} (free : Nat → α) (i : Nat) : Memory.read free [] i = free i := rfl

@[simp] theorem State.grayAt_hardReset (s : State) (i : Nat) :
    s.hardReset.grayAt i = Config.unwrittenGray (s.resets + 1) i := Memory.read_nil _ i

@[simp] theorem State.monoAt_hardReset (s : State) (i : Nat) :
    s.hardReset.monoAt i = Config.unwrittenMono (s.resets + 1) i := Memory.read_nil _ i

@[simp] theorem State.packedAt_hardReset (s : State) (i : Nat) :
    s.hardReset.packedAt i = Config.unwrittenPacked (s.resets + 1) i := Memory.read_nil _ i

/-! ## The step -/

theorem step_hardReset (s : State) (rest : List HostMove) :
    step { s with script := .hardReset :: rest } =
      .next (State.answer .done (State.hardReset { s with script := rest })) :=
  step_portMove s rest rfl

/-- Settles O2: the step is `State.hardReset` with the move taken off the script and answered. Its registers are
`Regs.reset`, which fit their fields for parameters in range, and its memories hold no written cell. -/
theorem hardwareResetFromAnyState : Obligations.HardwareResetFromAnyState := by
  intro s rest hwf
  refine ⟨_, step_hardReset s rest, ?regs, rfl, fun i => ⟨?gray, ?mono, ?packed⟩, rfl, rfl, rfl, rfl⟩
  case regs => exact Regs.reset_resetRegs hwf
  case gray => exact State.grayAt_hardReset { s with script := rest } i
  case mono => exact State.monoAt_hardReset { s with script := rest } i
  case packed => exact State.packedAt_hardReset { s with script := rest } i

end Sys2Proof.Machine
end
